-- ==== Sys2Proof/Word.lean ====
section
/-! DEFINITION. The bit-vector types of the block: byte, device address, data word and command code, with the
widths of the spec's parameter table (00_scope.md rule R9). Everything is unsigned (rule R11). -/
namespace Sys2Proof

/-- `u8`: one byte of a frame (R9, R12). -/
abbrev Byte := BitVec 8

/-- `u12`: a device address, `ADDR_W` = 12 bits (R9, R51). -/
abbrev Addr := BitVec 12

/-- `u32`: a payload word, `WORD_W` = 32 bits (R9). -/
abbrev Word := BitVec 32

/-- `u4`: the opcode of a frame, `CMD_W` = 4 bits (R9, R87). -/
abbrev CmdCode := BitVec 4

end Sys2Proof
end

