-- ==== Sys2Proof/Config.lean ====
section
/-! DEFINITION. What the spec leaves to the environment or to an implementation: the oracle's draws (10_state.md
rule R33, 93_implementation_defined.md U1) and the two open parameters of 00_scope.md rule R10. The constants
without a body are free values: no proof can see what they are. -/
namespace Sys2Proof

/-- FREE VALUE: the byte the bus environment returns at draw `d` (R33, U1: "each captured byte is a free draw of
the environment"). No body. Safe (assumption 3). -/
opaque Config.freeByte : Nat → Byte

/-- FREE VALUE: whether the bus environment cuts the exchange short at draw `d` (R33, D23). No body.
Safe (assumption 3). -/
opaque Config.freeCut : Nat → Bool

/-- FREE VALUE: by how many milliseconds the sleep of draw `d` exceeds its lower bound. No body.
Safe (assumption 4). -/
opaque Config.sleepExtra : Nat → Nat

/-- FREE VALUE: by how much the serial clock stays below its limit, in hertz. No body; nothing reads it
(R10). Safe (assumption 21). -/
opaque Config.sckBelowMax : Nat

/-- The lower bound of the RESET wait in milliseconds, `T_RESET_SLEEP` (R9, R110). -/
def Config.tResetSleepMin : Nat := 2

/-- `T_RESET_SLEEP_ACTUAL` (R10, R32, D17): the real length of the wait taken at draw `d`, any value of at least
`tResetSleepMin` milliseconds. -/
def Config.tResetSleepActual (d : Nat) : Nat := tResetSleepMin + sleepExtra d

/-- `F_SCK_MAX` in hertz: "up to 20 MHz" (R9, R231). -/
def Config.fSckMax : Nat := 20000000

/-- `F_SCK` in hertz: any value up to 20 MHz (R10, D20). No rule reads it. -/
def Config.fSck : Nat := fSckMax - sckBelowMax

end Sys2Proof
end

