-- ==== Sys2Proof/Syntax.lean ====
section
/-! DEFINITION. The command set: the block's three commands with their operands (00_scope.md rule R2,
30_encoding.md rules R86 and R92). One constructor per row of spec/opcode_table.json. -/
namespace Sys2Proof

/-- A command as the host presents it (R2, R28). The port can present nothing else: there is no other opcode, no
RESET with an address and no address wider than 12 bits (R51, R89). -/
inductive Instr where
  /-- `RESET`, source spelling `reset()` (R110). -/
  | reset
  /-- `WRITE a, v`, source spelling `write_reg(addr12, word)` (R130). -/
  | write (a : Addr) (v : Word)
  /-- `READ a`, source spelling `read_reg(addr12) -> u32` (R120). -/
  | read (a : Addr)
  deriving DecidableEq, Repr

end Sys2Proof
end

