-- ==== Sys2Proof/WellFormed.lean ====
section
/-! DEFINITION. Well-formedness. A command is well-formed by its type (30_encoding.md rule R89: "ill-formed
commands cannot be written down"), so the checks are about FRAMES: which command code, address and length a frame
of the wire protocol may have (rules R80, R87, R90). -/
namespace Sys2Proof

/-- Every command the port can present is well-formed (R89, R51, R60): the operand types are the check, and the
block checks no alignment and no range. -/
def Instr.wf : Instr → Bool
  | .reset => true
  | .write _ _ => true
  | .read _ => true

/-- What a receiver sees of a frame's form: its command code, its address and its length in bytes. -/
structure FrameShape where
  cmd : CmdCode
  addr : Addr
  len : Nat
  deriving DecidableEq, Repr

/-- The check on a RESET frame: two bytes, address `0x000` (R87, R90, R141). -/
def FrameShape.resetOk (f : FrameShape) : Bool :=
  f.len == 2 && f.addr == 0x000#12

/-- The check on a WRITE or READ frame: `2 + 4k` bytes with `k ≥ 1` (R80, R90). -/
def FrameShape.payloadOk (f : FrameShape) : Bool :=
  6 ≤ f.len && (f.len - 2) % 4 == 0

/-- A frame the wire protocol describes (R80, R87, R90). Every other code is reserved or not mentioned. -/
def FrameShape.wf (f : FrameShape) : Bool :=
  (f.cmd == 0x0#4 && f.resetOk) || ((f.cmd == 0x2#4 || f.cmd == 0x3#4) && f.payloadOk)

end Sys2Proof
end

