-- ==== Sys2Proof/Decode.lean ====
section
/-! DEFINITION. Frames: header and payload assembly, the frame of a command (the encoder), the bits of a frame on
the wire, and the total decoder from bytes to a command or a named refusal (30_encoding.md rules R80 to R94,
43_frame_decode_and_reference_device.md rules R140 to R143). -/
namespace Sys2Proof

/-! ## Header and payload assembly (R83, R84, R140) -/

/-- `hdr(c, a)` (R83): byte 0 is `(c << 4) | ((a >> 8) & 0x0F)`, byte 1 is `a & 0xFF`. -/
def hdr (c : CmdCode) (a : Addr) : List Byte :=
  [(c.setWidth 8 <<< 4) ||| ((a >>> 8) &&& 0x00F#12).setWidth 8, (a &&& 0x0FF#12).setWidth 8]

/-- `CMD`, bits 7:4 of byte 0 (R80, R140). -/
def headerCmd (h0 : Byte) : CmdCode := h0.extractLsb' 4 4

/-- `ADDR`, `((h0 & 0x0F) << 8) | h1` (R140). -/
def headerAddr (h0 h1 : Byte) : Addr :=
  ((h0 &&& 0x0F#8).setWidth 12 <<< 8) ||| h1.setWidth 12

/-- `decode_header(h0, h1)` (R140). -/
def decodeHeader (h0 h1 : Byte) : CmdCode × Addr := (headerCmd h0, headerAddr h0 h1)

/-- Byte `j` of a word, counted from the least significant (R57, R84). -/
def wordByte (v : Word) (j : Nat) : Byte := ((v >>> (8 * j)) &&& 0x000000FF#32).setWidth 8

/-- `pack32(v)` (R84): the four bytes of a word, least significant first. -/
def pack32 (v : Word) : List Byte := [wordByte v 0, wordByte v 1, wordByte v 2, wordByte v 3]

/-- `unpack32(b0, b1, b2, b3)` (R84): each byte is widened with zeros BEFORE it is shifted. -/
def unpack32 (b0 b1 b2 b3 : Byte) : Word :=
  b0.setWidth 32 ||| (b1.setWidth 32 <<< 8) ||| (b2.setWidth 32 <<< 16) ||| (b3.setWidth 32 <<< 24)

/-! ## The frame of a command (R80, R81, R86) -/

/-- The general frame of the wire protocol (R80): header, then the payload words, least significant byte first,
concatenated. The block itself sends none or one word (R88). -/
def wireFormat (c : CmdCode) (a : Addr) (payload : List Word) : List Byte :=
  hdr c a ++ payload.flatMap pack32

/-- `frame_bytes(cmd)` (R86): the outgoing frame. -/
def frameBytes : Instr → List Byte
  | .reset => hdr 0x0#4 0x000#12
  | .write a v => hdr 0x2#4 a ++ pack32 v
  | .read a => hdr 0x3#4 a ++ [0x00#8, 0x00#8, 0x00#8, 0x00#8]

/-- `frame_len(cmd)` (R86): 2 for RESET, 6 for READ and WRITE. -/
def frameLen : Instr → Nat
  | .reset => 2
  | .write _ _ => 6
  | .read _ => 6

/-- The encoder: the words of a command are the bytes of its frame (R86). -/
def encode (i : Instr) : List Byte := frameBytes i

/-- Wire bit `k` of a frame: `tx[i][7 - j]` with `k = 8 i + j` (00_scope.md rule R12), `none` past its end. -/
def wireBit (f : List Byte) (k : Nat) : Option Bool := (f[k / 8]?).map fun b => b.getLsbD (7 - k % 8)

/-- The bits of a frame in the order the wire carries them, bit 7 of each byte first (R12, R82). -/
def wireBits (f : List Byte) : List Bool := f.flatMap fun b => (List.range 8).map fun j => b.getLsbD (7 - j)

/-! ## Decoding (R141, R142) -/

/-- Why `decode_frame` refuses a frame (R141). A refusal claims nothing about what a device does with it (D13). -/
inductive DecodeRefusal where
  /-- Fewer than two bytes. -/
  | noHeader
  /-- CMD `0x0` with another length or another address than RESET has. -/
  | malformedReset
  /-- WRITE or READ with two or more words: described by the wire protocol, emitted by no command (R88). -/
  | multiWord
  /-- WRITE or READ whose length is not `2 + 4k`, `k ≥ 1`. -/
  | badLength
  /-- CMD `0xA`, `0xB`, `0xC`: "reserved and not emitted" (R87). -/
  | reservedCrcSafe
  /-- CMD `0x1`, `0x4` to `0x9`, `0xD` to `0xF`: not mentioned by the source (R87). -/
  | unknownCmd
  deriving DecidableEq, Repr

/-- What `decode_frame` answers (R141). -/
inductive Decoded where
  | ok (i : Instr)
  | refused (r : DecodeRefusal)
  deriving DecidableEq, Repr

/-- The part of `decode_frame` for WRITE and READ frames (R141): the payload decides. `onWord` reads the one word. -/
def decodePayload (onWord : Byte → Byte → Byte → Byte → Instr) (payload : List Byte) : Decoded :=
  match payload with
  | [b0, b1, b2, b3] => .ok (onWord b0 b1 b2 b3)
  | p => if 8 ≤ p.length ∧ p.length % 4 = 0 then .refused .multiWord else .refused .badLength

/-- `decode_frame(f)` (R141), total on every byte sequence. -/
def decodeFrame (f : List Byte) : Decoded :=
  match f with
  | h0 :: h1 :: payload =>
    let c := headerCmd h0
    let a := headerAddr h0 h1
    if c = 0x0#4 then
      if payload = [] ∧ a = 0x000#12 then .ok .reset else .refused .malformedReset
    else if c = 0x2#4 then decodePayload (fun b0 b1 b2 b3 => .write a (unpack32 b0 b1 b2 b3)) payload
    else if c = 0x3#4 then decodePayload (fun _ _ _ _ => .read a) payload
    else if c = 0xA#4 ∨ c = 0xB#4 ∨ c = 0xC#4 then .refused .reservedCrcSafe
    else .refused .unknownCmd
  | _ => .refused .noHeader

/-- The command a frame decodes to, if any. -/
def decode (f : List Byte) : Option Instr :=
  match decodeFrame f with
  | .ok i => some i
  | .refused _ => none

/-- The form of a frame, if it has a header. -/
def frameShape (f : List Byte) : Option FrameShape :=
  match f with
  | h0 :: h1 :: _ => some ⟨headerCmd h0, headerAddr h0 h1, f.length⟩
  | _ => none

/-- A frame the wire protocol describes (R80, R90). -/
def frameWf (f : List Byte) : Bool :=
  match frameShape f with
  | some sh => sh.wf
  | none => false

/-! ## The opcode table (R94) -/

/-- A row of spec/opcode_table.json: a header `H = (f[0] << 8) | f[1]` selects it when `H & mask = value`. -/
structure OpcodeRow where
  mnemonic : String
  frameBytes : Nat
  mask : BitVec 16
  value : BitVec 16
  deriving DecidableEq, Repr

/-- The three rows of the table (R94). -/
def opcodeTable : List OpcodeRow :=
  [⟨"RESET", 2, 0xFFFF#16, 0x0000#16⟩, ⟨"WRITE", 6, 0xF000#16, 0x2000#16⟩, ⟨"READ", 6, 0xF000#16, 0x3000#16⟩]

/-- The header of a frame as one number, byte 0 in the high half: `CMD :: ADDR` (R58, R94). -/
def headerWord (h0 h1 : Byte) : BitVec 16 := h0 ++ h1

/-- A row's selection rule (R94). -/
def OpcodeRow.selects (r : OpcodeRow) (h : BitVec 16) : Bool := h &&& r.mask == r.value

/-- The bytes of a table word: bits 15:0 are the header `H` of rule R94 (byte 0 in its high half, R58), and for a
WRITE or READ header bits 47:16 are the payload word, least significant byte first (R57). The bits above `nbits`
are zero. DEDUCED, safe (assumption 12). DESIGN CHOICE, safe (assumption 12): with a WRITE or READ header bits 48 and up
are dropped, and the frame has six bytes whatever they are; with any other header a set bit above 15 makes a six-byte
frame, which the decoder refuses. -/
def tableFrame (nbits w : Nat) : List Byte :=
  let x := w % 2 ^ nbits
  let h : BitVec 16 := BitVec.ofNat 16 x
  let header : List Byte := [h.extractLsb' 8 8, h.extractLsb' 0 8]
  let c := h.extractLsb' 12 4
  if c = 0x2#4 ∨ c = 0x3#4 then header ++ pack32 (BitVec.ofNat 32 (x / 65536))
  else if x / 65536 = 0 then header else header ++ pack32 (BitVec.ofNat 32 (x / 65536))

/-- The command this decoder reads from a word numbered as spec/opcode_table.json numbers its bits. -/
def decodeTableWord (nbits w : Nat) : Option Instr := decode (tableFrame nbits w)

end Sys2Proof
end

