-- ==== Sys2Proof/Machine/State.lean ====
section
/-! DEFINITION. The machine's state as plain data: the block's registers (10_state.md rule R21), the command port,
and the bus environment the block is attached to (rules R14, R27, R33;
43_frame_decode_and_reference_device.md rules R150 to R153), with its value after the block's own reset (R38). -/
namespace Sys2Proof.Machine

/-- The `OP` register's values: two bits, three values (R21). -/
inductive Op where
  | reset
  | read
  | write
  deriving DecidableEq, Repr

/-- The `PHASE` register's values (R21, R36). -/
inductive Phase where
  | idle
  | xfer
  | sleep
  deriving DecidableEq, Repr

/-- The `CS` register's values: RELEASED is the high level of the line, ASSERTED the low level (R21, R35(d), D19). -/
inductive ChipSelect where
  | released
  | asserted
  deriving DecidableEq, Repr

/-- The `STATUS` register's values (R21, R24, D7). -/
inductive Status where
  | ok
  | busIoErr
  deriving DecidableEq, Repr

/-- A six-byte data buffer: `TX[0..5]` or `RX[0..5]` (R21). The two are separate storage (R23). -/
structure Buf where
  b0 : Byte
  b1 : Byte
  b2 : Byte
  b3 : Byte
  b4 : Byte
  b5 : Byte
  deriving DecidableEq, Repr

/-- What the bus environment does with the next byte of an exchange: a choice of the oracle (R33). -/
inductive BusEvent where
  /-- The byte is exchanged and `b` is captured (R29). -/
  | moved (b : Byte)
  /-- The exchange is cut short here (R30). -/
  | cut
  /-- The bus primitive never returns (R36, U16). -/
  | hang
  deriving DecidableEq, Repr

/-- The device on the far side of the bus. -/
inductive Device where
  /-- The real device: every captured byte and every cut is the environment's free choice (R33, R155). -/
  | oracle
  /-- The reference device, whose contents are `mem` (R150 to R153). -/
  | reference
  /-- The reference device after a command that returned `BUS_IO_ERR`: its contents are unknown until the next
  completed RESET (R198, U3, D16). DESIGN CHOICE on the form, safe (assumption 7). -/
  | unknown
  deriving DecidableEq, Repr

/-- What the bus and the sleep timer see of the block, in order (R34, R35). A log of the model's own. -/
inductive WireEvent where
  /-- Chip-select driven low. -/
  | csLow
  /-- The environment took this outgoing byte (R29). -/
  | byte (b : Byte)
  /-- Chip-select driven high. -/
  | csHigh
  /-- `Sleep_ms(2)` returned after this many milliseconds (R13, R32). -/
  | slept (ms : Nat)
  deriving DecidableEq, Repr

/-- Memory of the device's address space: cells with strictly rising addresses below 4096. An address that is not
listed has no value (R150). Safe (assumption 6). -/
abbrev Memory := List Host.Cell

/-- Why the machine stops. -/
inductive Fault where
  /-- Raised by a READ frame answered by the reference device when one of the four addressed bytes has no value:
  "the read has no value and a model must fault" (R150, R223). Safe: the model stops where a device would answer. -/
  | noDeviceValue (a : Addr)
  /-- Raised by a byte exchange with the reference device when the frame in `TX` decodes to no command: "for a
  refused frame it has no answer (a model faults)" (R152). No command sends such a frame. Safe. -/
  | noDeviceAnswer (r : DecodeRefusal)
  /-- Raised by a byte exchange the environment never answers: "a bus primitive that never returns hangs the
  block" (R36, U16). The stuck state, by name. Safe. -/
  | busHung
  /-- Raised by the transaction machine in `XFER` when no step of R29 to R31 is enabled (`IDX` past `LEN`, or a
  byte index the buffers do not have). No run reaches it (R34: "No other sequence of steps exists"). Safe. -/
  | noStepEnabled
  /-- Raised by a host read of `RDATA` when it is not valid (R123). Safe. -/
  | rdataNotValid
  deriving DecidableEq, Repr

/-- Why the machine gives an instruction no meaning. -/
inductive Refusal where
  /-- Raised by the dispatcher for a command that has no meaning yet. No arm raises it now. Safe. -/
  | notModelled (mnemonic : String)
  deriving DecidableEq, Repr

/-- Everything the spec gives the machine (INVENTORY.md, "State"). -/
@[ext]
structure State where
  /-- `OP` (R21). -/
  op : Op
  /-- `ADDR` (R21). -/
  addr : Addr
  /-- `WDATA` (R21). -/
  wdata : Word
  /-- `TX[0..5]` (R21). -/
  tx : Buf
  /-- `RX[0..5]` (R21). -/
  rx : Buf
  /-- `LEN`, 3 bits (R21). -/
  len : BitVec 3
  /-- `IDX`, 3 bits (R21, R26). -/
  idx : BitVec 3
  /-- `PHASE` (R21). -/
  phase : Phase
  /-- `CS` (R21, R27(a)). -/
  cs : ChipSelect
  /-- `STATUS` (R21, R24). -/
  status : Status
  /-- `RDATA` (R21). -/
  rdata : Word
  /-- Which command completed last, `none` before the first completion: the completion event of the command port
  (R25) and the first half of the validity rule of `RDATA` (R123). DEDUCED, safe (assumption 2). -/
  completed : Option Op
  /-- The command port's inputs (R20, R25): the commands the host presents, one at a time, the first of them now
  (R14, R65). Empty: the host presents none. DESIGN CHOICE, safe (assumption 10). -/
  offers : List Instr
  /-- The device on the bus (R14(3), R27(b)). Which one it is, is no state of the block. -/
  device : Device
  /-- The reference device's contents `M` (R150). -/
  mem : Memory
  /-- The environment's choices for the next byte exchanges (R33); past its end they are draws of `Config`. -/
  tape : List BusEvent
  /-- How many free values have been drawn. The model's own: DESIGN CHOICE, safe (assumptions 3 and 19). -/
  draws : Nat
  /-- What has been seen on the wire since reset, oldest first. The model's own: DESIGN CHOICE, safe
  (assumption 19). -/
  wire : List WireEvent
  deriving DecidableEq, Repr

/-- The state after the block's own reset (R38, R220): `PHASE = IDLE`, `CS = RELEASED`. The spec gives every other
register no value: DESIGN CHOICE, the values here are the model's, unsafe (assumption 1). DESIGN CHOICE: the bus
environment is the oracle with nothing fixed, safe (assumption 5). That the line is high is UNVERIFIED, unsafe
(assumption 22). -/
def State.reset : State where
  op := .reset
  addr := 0
  wdata := 0
  tx := ⟨0, 0, 0, 0, 0, 0⟩
  rx := ⟨0, 0, 0, 0, 0, 0⟩
  len := 0
  idx := 0
  phase := .idle
  cs := .released
  status := .ok
  rdata := 0
  completed := none
  offers := []
  device := .oracle
  mem := []
  tape := []
  draws := 0
  wire := []

end Sys2Proof.Machine
end

