-- ==== Sys2Proof/Machine/Operands.lean ====
section
/-! DEFINITION. The operands of a command as the block's registers hold them. One addressing mode: an absolute
12-bit address (41_read_command.md rule R120, 42_write_command.md rule R130), neither checked nor changed
(20_memory.md rules R51, R60, R64). -/
namespace Sys2Proof

/-- `op(cmd)` (R28): what `OP` latches. -/
def Instr.op : Instr → Machine.Op
  | .reset => .reset
  | .write _ _ => .write
  | .read _ => .read

/-- What `ADDR` latches: the operand, and `0x000` for RESET (R28, R110). -/
def Instr.addrOperand : Instr → Addr
  | .reset => 0x000#12
  | .write a _ => a
  | .read a => a

/-- What `WDATA` holds after the command is accepted: a WRITE's word, else what it held (R28). -/
def Instr.wdataOperand (i : Instr) (old : Word) : Word :=
  match i with
  | .reset => old
  | .write _ v => v
  | .read _ => old

end Sys2Proof

namespace Sys2Proof.Machine

/-- The command the operand registers `OP`, `ADDR`, `WDATA` hold (R22). -/
def State.latched (s : State) : Instr :=
  match s.op with
  | .reset => .reset
  | .write => .write s.addr s.wdata
  | .read => .read s.addr

/-- Byte `k` of a buffer; the buffers have six (R21). -/
def Buf.byte? (b : Buf) (k : Nat) : Option Byte :=
  match k with
  | 0 => some b.b0
  | 1 => some b.b1
  | 2 => some b.b2
  | 3 => some b.b3
  | 4 => some b.b4
  | 5 => some b.b5
  | _ => none

/-- Writing byte `k` of a buffer; there is no seventh byte to write. -/
def Buf.set (b : Buf) (k : Nat) (x : Byte) : Buf :=
  match k with
  | 0 => { b with b0 := x }
  | 1 => { b with b1 := x }
  | 2 => { b with b2 := x }
  | 3 => { b with b3 := x }
  | 4 => { b with b4 := x }
  | 5 => { b with b5 := x }
  | _ => b

/-- Writing a sequence of bytes from byte `k` on; the other bytes keep what they held (R110). -/
def Buf.load (b : Buf) (k : Nat) (xs : List Byte) : Buf :=
  match xs with
  | [] => b
  | x :: xs => (b.set k x).load (k + 1) xs

/-- The six bytes of a buffer in order. -/
def Buf.toList (b : Buf) : List Byte := [b.b0, b.b1, b.b2, b.b3, b.b4, b.b5]

/-- The outgoing frame in flight: the first `LEN` bytes of `TX` (R28, R34). -/
def State.frame (s : State) : List Byte := s.tx.toList.take s.len.toNat

end Sys2Proof.Machine
end

