-- ==== Sys2Proof/Machine/Flags.lean ====
section
/-! DEFINITION. The block's one flag, `STATUS`, and the host's view of a completed command: when `RDATA` is valid
and what the blocking call returns (10_state.md rule R24, 41_read_command.md rule R123, 60_exceptions.md rule
R191, 90_conflicts.md C4 and C12). -/
namespace Sys2Proof.Machine

/-- The status port's bit: `OK = 0`, `BUS_IO_ERR = 1` (R191, D7). -/
def Status.code : Status → BitVec 1
  | .ok => 0#1
  | .busIoErr => 1#1

/-- The level of the chip-select line, `true` for high (R35(d), D19). -/
def ChipSelect.level : ChipSelect → Bool
  | .released => true
  | .asserted => false

/-- The status of an exchange: `OK` when it moved all its bytes, `BUS_IO_ERR` when it was short (R24, R190). -/
def statusOf (short : Bool) : Status := if short then .busIoErr else .ok

/-- `rdata_valid`: the last completed command was a READ and `STATUS = OK` (R123). -/
def State.rdataValid (s : State) : Bool := s.completed == some .read && s.status == .ok

/-- Whether a completion has written `STATUS` since reset (R24). Until then the spec gives it no value (R21, R221). -/
def State.statusWritten (s : State) : Bool := s.completed.isSome

/-- The host's read of `STATUS` (R21, R25). Before the first completion it reads the reset value the model names: DESIGN
CHOICE, unsafe (assumption 1); a claim can guard it with `statusWritten` (assumption 2). -/
def State.hostStatus (s : State) : Status := s.status

/-- The status port (R25, R191): the bit the host reads. -/
def State.statusPort (s : State) : BitVec 1 := s.hostStatus.code

/-- The host's read of `RDATA`, guarded by its validity (R123, U13). -/
def State.hostRdata (s : State) : Except Fault Word :=
  if s.rdataValid then .ok s.rdata else .error .rdataNotValid

/-- What the blocking call of the last completed command returned: a status and, only for a READ with `OK`, a word
(R13, R92, R120, C4). `none` before the first completion. -/
def State.hostResult (s : State) : Option (Status × Option Word) :=
  match s.completed with
  | some _ => some (s.status, if s.rdataValid then some s.rdata else none)
  | none => none

end Sys2Proof.Machine
end

