-- ==== Sys2Proof/Machine/Map.lean ====
section
/-! DEFINITION. The device's address map: its regions, the register addresses the spec gives and the documented
reset words (20_memory.md rules R52 to R55, 70_reset_and_hazards.md rule R222). The map constrains the host and the
device; the block treats every address alike (R52). -/
namespace Sys2Proof.Machine

/-- The five regions of the address space (R52, C1). -/
inductive Region where
  | canSfr
  | fifoTable
  | filterTable
  | messageRam
  | deviceSfr
  deriving DecidableEq, Repr

/-- The first and the last byte address of a region, the first and last region to the end of their last word
(R52, C2). -/
def Region.bounds : Region → Nat × Nat
  | .canSfr => (0x000, 0x04F)
  | .fifoTable => (0x050, 0x1CF)
  | .filterTable => (0x1D0, 0x2EF)
  | .messageRam => (0x400, 0xBFF)
  | .deviceSfr => (0xE00, 0xE17)

/-- Whether a byte address lies in a region. -/
def Region.holds (r : Region) (a : Addr) : Bool := r.bounds.1 ≤ a.toNat && a.toNat ≤ r.bounds.2

/-- The region of a byte address; `none` for `0x2F0–0x3FF`, `0xC00–0xDFF` and `0xE18–0xFFF` (R52). -/
def regionOf (a : Addr) : Option Region :=
  [Region.canSfr, .fifoTable, .filterTable, .messageRam, .deviceSfr].find? (·.holds a)

/-! ## Register addresses (R53) -/

def ciCON : Addr := 0x000#12
def ciNBTCFG : Addr := 0x004#12
def ciDBTCFG : Addr := 0x008#12
def ciTDC : Addr := 0x00C#12
def ciINT : Addr := 0x01C#12
def ciTREC : Addr := 0x034#12
def ciTEFCON : Addr := 0x040#12
def ciTEFSTA : Addr := 0x044#12
def ciFIFOBA : Addr := 0x04C#12
def ciTXQCON : Addr := 0x050#12
def ciTXQSTA : Addr := 0x054#12
def oscAddr : Addr := 0xE00#12
def ioconAddr : Addr := 0xE04#12
def devidAddr : Addr := 0xE14#12

/-! ## The FIFO and filter tables (R54, R55); channel 0 is the TX queue -/

/-- `CiFIFOCON[n] = 0x050 + 12 n` (R54). -/
def ciFIFOCON (n : Nat) : Addr := BitVec.ofNat 12 (0x050 + 12 * n)
/-- `CiFIFOSTA[n] = 0x054 + 12 n` (R54). -/
def ciFIFOSTA (n : Nat) : Addr := BitVec.ofNat 12 (0x054 + 12 * n)
/-- `CiFIFOUA[n] = 0x058 + 12 n` (R54). -/
def ciFIFOUA (n : Nat) : Addr := BitVec.ofNat 12 (0x058 + 12 * n)
/-- The byte `CiFLTCON[n]`, at `0x1D0 + n` (R55). -/
def ciFLTCON (n : Nat) : Addr := BitVec.ofNat 12 (0x1D0 + n)
/-- The word that holds `CiFLTCON[n]`, at `0x1D0 + 4 (n >> 2)` (R55). -/
def ciFLTCONWord (n : Nat) : Addr := BitVec.ofNat 12 (0x1D0 + 4 * (n / 4))
/-- `CiFLTOBJ[n] = 0x1F0 + 8 n` (R55). -/
def ciFLTOBJ (n : Nat) : Addr := BitVec.ofNat 12 (0x1F0 + 8 * n)
/-- `CiMASK[n] = 0x1F4 + 8 n` (R55). -/
def ciMASK (n : Nat) : Addr := BitVec.ofNat 12 (0x1F4 + 8 * n)

/-! ## Documented reset words (R222) -/

/-- The nine rows of the reset table that stand for one address. -/
def resetRows : List (Addr × Word) :=
  [(ciCON, 0x04980760#32), (ciNBTCFG, 0x003E0F0F#32), (ciDBTCFG, 0x000E0303#32), (ciTDC, 0x00021000#32),
   (ciINT, 0x00000000#32), (ciTREC, 0x00200000#32), (ciTEFCON, 0x00000400#32), (oscAddr, 0x00000460#32),
   (ioconAddr, 0x00000003#32)]

/-- The row `CiFIFOCON[n]` of the reset table, for `n` in 0 to 31. -/
def resetFifoRows : List (Addr × Word) := (List.range 32).map fun n => (ciFIFOCON n, 0x00600400#32)

/-- The reset table, one entry for each address it documents (R222). -/
def resetTable : List (Addr × Word) := resetRows ++ resetFifoRows

end Sys2Proof.Machine
end

