-- ==== Sys2Proof/Machine/Ops.lean ====
section
/-! DEFINITION. The shared operations: the device's memory, the reference device, the pieces of a transaction (the
latching of a command, the exchange of its bytes, the release of chip-select, the sleep, the completion) and the
block's one exception, `BUS_IO_ERR`, with what follows it (10_state.md rules R28 to R35, 60_exceptions.md rules
R190 to R197, 43_frame_decode_and_reference_device.md rules R150 to R153). -/
namespace Sys2Proof.Machine

/-! ## Memory of the device's address space -/

/-- The byte at an address, or no value (R150). -/
def Memory.get : Memory → Nat → Option Byte
  | [], _ => none
  | (k, b) :: m, a => if k = a then some b else Memory.get m a

/-- Setting the byte at an address; the cells stay in rising order. -/
def Memory.put : Memory → Nat → Byte → Memory
  | [], a, b => [(a, b)]
  | (k, c) :: m, a, b =>
    if a < k then (a, b) :: (k, c) :: m
    else if a = k then (a, b) :: m
    else (k, c) :: Memory.put m a b

/-- The cells rise strictly from `lo` on and stay below 4096. -/
def Memory.wfFrom : Nat → Memory → Bool
  | _, [] => true
  | lo, (k, _) :: m => decide (lo ≤ k) && decide (k < 4096) && Memory.wfFrom (k + 1) m

/-- The canonical form: addresses strictly rising, all inside the 12-bit space (R50). An address that is not listed
has no value, so no entry can equal it. -/
def Memory.wf (m : Memory) : Bool := Memory.wfFrom 0 m

/-- Where byte `j` of a word access at `a` lies: `(a + j) mod 4096` (R59, R150, R151). -/
def byteAddr (a : Addr) (j : Nat) : Addr := a + BitVec.ofNat 12 j

/-- `MemRead(a, 4)` (R150): no value if one of the four bytes has none. Byte by byte, so an address in no row of the reset
table reads a value after RESET where two adjacent rows hold its four bytes, against R153's "a READ of any other address
faults": DESIGN CHOICE, unsafe (assumption 24). -/
def Memory.read32 (m : Memory) (a : Addr) : Option Word :=
  match m.get (byteAddr a 0).toNat, m.get (byteAddr a 1).toNat, m.get (byteAddr a 2).toNat,
      m.get (byteAddr a 3).toNat with
  | some b0, some b1, some b2, some b3 => some (unpack32 b0 b1 b2 b3)
  | _, _, _, _ => none

/-- `MemWrite(a, 4, v)` (R151). -/
def Memory.write32 (m : Memory) (a : Addr) (v : Word) : Memory :=
  (((m.put (byteAddr a 0).toNat (wordByte v 0)).put (byteAddr a 1).toNat (wordByte v 1)).put
    (byteAddr a 2).toNat (wordByte v 2)).put (byteAddr a 3).toNat (wordByte v 3)

/-- The reference device's contents after a RESET frame: only the documented reset words have a value (R153). -/
def resetMemory : Memory := resetTable.foldl (fun m row => m.write32 row.1 row.2) []

/-! ## The device's answers (R150 to R153, R121) -/

/-- The byte captured while byte `k` of `frame` is sent, where `b` is the environment's own choice for it. The real
device returns that choice (R33). The reference device returns zero filler and, for the four payload bytes of a
READ, the addressed word, least significant byte first (R121, R152). While its contents are unknown those four bytes
are the environment's choice (U3). DESIGN CHOICE on the filler and the tape, see assumptions 7 and 15. -/
def deviceByte (d : Device) (m : Memory) (frame : List Byte) (k : Nat) (b : Byte) : Except Fault Byte :=
  match d with
  | .oracle => .ok b
  | .reference =>
    match decodeFrame frame with
    | .ok (.read a) =>
      if k < 2 then .ok 0x00#8
      else match m.read32 a with
        | some w => .ok (wordByte w (k - 2))
        | none => .error (.noDeviceValue a)
    | .ok (.write _ _) => .ok 0x00#8
    | .ok .reset => .ok 0x00#8
    | .refused r => .error (.noDeviceAnswer r)
  | .unknown =>
    match decodeFrame frame with
    | .ok (.read _) => if k < 2 then .ok 0x00#8 else .ok b
    | .ok (.write _ _) => .ok 0x00#8
    | .ok .reset => .ok 0x00#8
    | .refused r => .error (.noDeviceAnswer r)

/-- The reference device's contents after a whole frame has been received and chip-select rises: a WRITE is stored,
all four bytes at once (R151), a RESET restores the documented reset words and nothing else (R153), a READ changes
nothing. The real device's contents are not held (R155), and unknown contents stay unknown until a RESET (R198). -/
def Device.contentsAfter (d : Device) (m : Memory) (frame : List Byte) : Memory :=
  match d with
  | .oracle => m
  | .reference =>
    match decodeFrame frame with
    | .ok (.write a v) => m.write32 a v
    | .ok .reset => resetMemory
    | .ok (.read _) => m
    | .refused _ => m
  | .unknown =>
    match decodeFrame frame with
    | .ok (.write _ _) => m
    | .ok .reset => resetMemory
    | .ok (.read _) => m
    | .refused _ => m

/-- Which device it is after a whole frame: a RESET makes the reference device's contents known again (R153, R198). -/
def Device.afterFrame (d : Device) (frame : List Byte) : Device :=
  match d with
  | .oracle => .oracle
  | .reference => .reference
  | .unknown =>
    match decodeFrame frame with
    | .ok (.write _ _) => .unknown
    | .ok .reset => .reference
    | .ok (.read _) => .unknown
    | .refused _ => .unknown

/-- The device acts on the whole frame it has received, when chip-select rises. DESIGN CHOICE, unsafe in the middle of
a frame (assumption 13). -/
def deviceCommit (s : State) : State :=
  { s with
    device := s.device.afterFrame s.frame
    mem := s.device.contentsAfter s.mem s.frame }

/-- The device after a frame was cut short: the reference device's contents are a draw from now on (U3, D16,
R198). -/
def Device.afterCut : Device → Device
  | .oracle => .oracle
  | .reference => .unknown
  | .unknown => .unknown

/-! ## The command port -/

/-- The command the host presents now, and the state in which the port has moved on to the next (R14, R28, R65). -/
def fetch (s : State) : Option (Instr × State) :=
  match s.offers with
  | [] => none
  | i :: rest => some (i, { s with offers := rest })

/-- The state in which the host presents `i` next to a block that is free to accept it: `PHASE = IDLE`, so
`CS = RELEASED` (R28, R35(c)). -/
def present (i : Instr) (s : State) : State :=
  { s with offers := i :: s.offers, phase := .idle, cs := .released }

/-- The state in which the host presents nothing. -/
def presentNone (s : State) : State := { s with offers := [] }

/-! ## The pieces of a transaction -/

/-- `accept(cmd)` (R28): the operands are latched, the whole frame is built, chip-select is asserted. -/
def accept (i : Instr) (s : State) : State :=
  { s with
    op := i.op
    addr := i.addrOperand
    wdata := i.wdataOperand s.wdata
    tx := s.tx.load 0 (frameBytes i)
    len := BitVec.ofNat 3 (frameLen i)
    idx := 0
    cs := .asserted
    phase := .xfer
    wire := s.wire ++ [.csLow] }

/-- `byte(b)` (R29): the environment takes `sent`, the byte `TX[IDX]`, and `b` is captured. -/
def moveByte (sent b : Byte) (s : State) : State :=
  { s with rx := s.rx.set s.idx.toNat b, idx := s.idx + 1, wire := s.wire ++ [.byte sent] }

/-- Chip-select driven high at the end of a whole frame (R31, R35). -/
def releaseCs (s : State) : State := { s with cs := .released, wire := s.wire ++ [.csHigh] }

/-- The word of a READ: `RX[2] | RX[3] << 8 | RX[4] << 16 | RX[5] << 24` (R31, R120). -/
def loadRdata (s : State) : State := { s with rdata := unpack32 s.rx.b2 s.rx.b3 s.rx.b4 s.rx.b5 }

/-- `Sleep_ms(2)`: it returns after at least two milliseconds, with chip-select released (R13, R32, R110, R203). -/
def sleepMs (s : State) : State :=
  { s with wire := s.wire ++ [.slept (Config.tResetSleepActual s.draws)], draws := s.draws + 1 }

/-- A command completes with `OK` (R31, R32). -/
def completeOk (s : State) : State := { s with status := statusOf false, phase := .idle, completed := some s.op }

/-- TAKING THE EXCEPTION: `raise BUS_IO_ERR` (R30, R192, R196). The command ends at once: chip-select is released,
`STATUS` is `BUS_IO_ERR`, `RDATA` is not written, a RESET does not sleep, and the block is idle. Nothing is saved and
control goes nowhere. There is no return from it (R197): the block accepts the next command. What the device did
with the part of the frame it received is unknown (U3). UNVERIFIED: the release of chip-select is the spec's D8,
unsafe (assumption 9). DEDUCED: `RX` and `IDX` keep what the exchange left, unsafe (assumption 8). -/
def raiseBusIoErr (s : State) : State :=
  { s with
    cs := .released
    status := statusOf true
    phase := .idle
    completed := some s.op
    device := s.device.afterCut
    wire := s.wire ++ [.csHigh] }

/-! ## The exchange of a whole frame -/

/-- What became of `Exchange(tx, len)` (R13, R33, R34). -/
structure Exchange where
  /-- Why the machine stops, if it does. -/
  fault : Option Fault
  /-- Whether fewer than `len` bytes moved. -/
  short : Bool
  /-- The captured bytes, in order. -/
  rx : List Byte
  /-- The environment's choices that are left. -/
  tape : List BusEvent
  /-- The free values drawn so far. -/
  draws : Nat
  deriving DecidableEq, Repr

/-- An exchange that begins with one captured byte. -/
def Exchange.cons (b : Byte) (x : Exchange) : Exchange := { x with rx := b :: x.rx }

/-- The exchange of `n` bytes with the real device by draws alone: each byte is captured or the exchange is cut
(R33, U1, D23). -/
def drawnExchange : Nat → Nat → Exchange
  | 0, d => ⟨none, false, [], [], d⟩
  | n + 1, d =>
    let x := drawnExchange n (d + 1)
    let c := Config.freeCut d
    { fault := none
      short := c || x.short
      rx := if c then [] else Config.freeByte d :: x.rx
      tape := []
      draws := if c then d + 1 else x.draws }

/-- The exchange of the `n` bytes of `frame` from byte `k` on. The environment's choices come from `tape`; past its
end, the real device's are draws and the reference device answers without a cut (R33, R152). -/
def exchangeFrom (d : Device) (m : Memory) (frame : List Byte) : Nat → Nat → List BusEvent → Nat → Exchange
  | 0, _, tape, draws => ⟨none, false, [], tape, draws⟩
  | _ + 1, _, .cut :: tape, draws => ⟨none, true, [], tape, draws⟩
  | _ + 1, _, .hang :: tape, draws => ⟨some .busHung, false, [], tape, draws⟩
  | n + 1, k, .moved b :: tape, draws =>
    match deviceByte d m frame k b with
    | .error f => ⟨some f, false, [], tape, draws⟩
    | .ok c => (exchangeFrom d m frame n (k + 1) tape draws).cons c
  | n + 1, k, [], draws =>
    match d with
    | .oracle => drawnExchange (n + 1) draws
    | .reference | .unknown =>
      match deviceByte d m frame k (Config.freeByte draws) with
      | .error f => ⟨some f, false, [], [], draws⟩
      | .ok c => (exchangeFrom d m frame n (k + 1) [] (draws + 1)).cons c

/-- `Exchange(tx, len)` of the frame in flight (R13, R34). -/
def exchange (s : State) : Exchange :=
  exchangeFrom s.device s.mem s.frame s.len.toNat 0 s.tape s.draws

/-- The registers and the bus after an exchange: `RX` holds the captured bytes, `IDX` counts them, and the
environment has taken as many bytes of the frame (R29, R34). -/
def afterExchange (s : State) (x : Exchange) : State :=
  { s with
    rx := s.rx.load 0 x.rx
    idx := BitVec.ofNat 3 x.rx.length
    tape := x.tape
    draws := x.draws
    wire := s.wire ++ (s.frame.take x.rx.length).map .byte }

/-- One transaction, the big step of R110, R120 and R130: the command is accepted, its frame is exchanged under one
chip-select assertion, and either `BUS_IO_ERR` is raised or `finish` completes the command. A command offered to a
busy block is not taken (R28, D18): nothing changes. -/
def transact (i : Instr) (finish : State → State) (s : State) : Host.Outcome State Fault Refusal :=
  if s.phase = .idle then
    let t := accept i s
    let x := exchange t
    match x.fault with
    | some f => .fault f
    | none =>
      let u := afterExchange t x
      .next (if x.short then raiseBusIoErr u else finish (deviceCommit (releaseCs u)))
  else .next s

end Sys2Proof.Machine
end

