-- ==== Sys2Proof/Machine/Read.lean ====
section
/-! DEFINITION. The READ command, the block's load (41_read_command.md rules R120 to R123). -/
namespace Sys2Proof.Machine

/-- READ (R120): the frame `hdr(0x3, a)` and four zero bytes; if the exchange was not short, `RDATA` is the word of
the captured bytes 2 to 5, whatever device answered (R121, R122). -/
def execRead (a : Addr) (s : State) : Host.Outcome State Fault Refusal :=
  transact (.read a) (fun t => completeOk (loadRdata t)) s

end Sys2Proof.Machine
end

