-- ==== Sys2Proof/Machine/Reset.lean ====
section
/-! DEFINITION. The RESET command (40_reset_command.md rules R110 to R113). -/
namespace Sys2Proof.Machine

/-- RESET (R110): the frame `00 00`, then, if the exchange was not short, `Sleep_ms(2)` with chip-select released,
then `OK`. -/
def execReset (s : State) : Host.Outcome State Fault Refusal :=
  transact .reset (fun t => completeOk (sleepMs t)) s

end Sys2Proof.Machine
end

