-- ==== Sys2Proof/Machine/Write.lean ====
section
/-! DEFINITION. The WRITE command, the block's store (42_write_command.md rules R130 to R132). -/
namespace Sys2Proof.Machine

/-- WRITE (R130): the frame `hdr(0x2, a)` and the word, least significant byte first; the captured bytes are
ignored (R132(d)) and `RDATA` is kept. -/
def execWrite (a : Addr) (v : Word) (s : State) : Host.Outcome State Fault Refusal :=
  transact (.write a v) (fun t => completeOk t) s

end Sys2Proof.Machine
end

