-- ==== Sys2Proof/Machine/Dispatch.lean ====
section
/-! DEFINITION. The dispatcher: one arm for each command (30_encoding.md rule R94). -/
namespace Sys2Proof.Machine

def exec (i : Instr) (s : State) : Host.Outcome State Fault Refusal :=
  match i with
  | .reset => Sys2Proof.Machine.execReset s
  | .write a v => Sys2Proof.Machine.execWrite a v s
  | .read a => Sys2Proof.Machine.execRead a s

end Sys2Proof.Machine
end

