-- ==== Sys2Proof/Machine/Micro.lean ====
section
/-! DEFINITION. The transaction machine in small steps, one byte at a time: `accept`, `byte`, `short`, `finish`,
`wake` (10_state.md rules R28 to R32), and the run of one transaction to its end (rules R34, R36). -/
namespace Sys2Proof.Machine

/-- `byte` with the device's answer to the environment's choice `b` (R29, R121, R152). -/
def microAnswer (sent b : Byte) (s : State) : Host.Outcome State Fault Refusal :=
  match deviceByte s.device s.mem s.frame s.idx.toNat b with
  | .error f => .fault f
  | .ok c => .next (moveByte sent c s)

/-- The step of a block in `XFER` with `IDX < LEN`: `byte` (R29) or `short` (R30), at the environment's choice. -/
def microByte (s : State) : Host.Outcome State Fault Refusal :=
  match s.tx.byte? s.idx.toNat with
  | none => .fault .noStepEnabled
  | some sent =>
    match s.tape with
    | .cut :: tape => .next (raiseBusIoErr { s with tape := tape })
    | .hang :: _ => .fault .busHung
    | .moved b :: tape => microAnswer sent b { s with tape := tape }
    | [] =>
      let t := { s with draws := s.draws + 1 }
      match s.device with
      | .oracle =>
        .next (if Config.freeCut s.draws then raiseBusIoErr t else moveByte sent (Config.freeByte s.draws) t)
      | .reference => microAnswer sent (Config.freeByte s.draws) t
      | .unknown => microAnswer sent (Config.freeByte s.draws) t

/-- `finish` (R31): chip-select is released; WRITE and READ complete, RESET goes to sleep with its status not yet
written. -/
def microFinish (s : State) : State :=
  let t := deviceCommit (releaseCs s)
  match s.op with
  | .write => completeOk t
  | .read => completeOk (loadRdata t)
  | .reset => { t with phase := .sleep }

/-- `wake` (R32): the sleep has lasted at least two milliseconds. -/
def microWake (s : State) : State := completeOk (sleepMs s)

/-- The step of a block in `XFER`: a byte while `IDX < LEN`, `finish` at `IDX = LEN` (R29 to R31). -/
def microXfer (s : State) : Host.Outcome State Fault Refusal :=
  if s.idx < s.len then microByte s
  else if s.idx = s.len then .next (microFinish s)
  else .fault .noStepEnabled

/-- One step of the transaction machine (R28 to R32). An idle block accepts the command the host presents, and waits
if the host presents none. -/
def microStep (s : State) : Host.Outcome State Fault Refusal :=
  match s.phase with
  | .idle =>
    match fetch s with
    | some (i, t) => .next (accept i t)
    | none => .next s
  | .xfer => microXfer s
  | .sleep => .next (microWake s)

/-- Small steps until the transaction is over, at most `fuel` of them (R34, R36). -/
def settle : Nat → State → Host.Outcome State Fault Refusal
  | 0, s => .next s
  | fuel + 1, s =>
    match s.phase with
    | .idle => .next s
    | .xfer | .sleep =>
      match microStep s with
      | .next t => settle fuel t
      | .fault f => .fault f
      | .refused r => .refused r

/-- The longest run of R34 after `accept`: six bytes and `finish`, or two bytes, `finish` and `wake`. -/
def settleFuel : Nat := 7

end Sys2Proof.Machine
end

