-- ==== Sys2Proof/Machine/Step.lean ====
section
/-! DEFINITION. One step of the machine. An idle block takes the command the host presents and runs its whole
transaction (`exec`); a block found in the middle of a transaction takes the next small step of it, and does not look
at the command port (10_state.md rules R28, R36; 20_memory.md rules R65, R68). -/
namespace Sys2Proof.Machine

/-- One step. With no command presented an idle block waits: "the block does nothing until called" (R38).
DEDUCED, safe (assumptions 10 and 16). -/
def step (s : State) : Host.Outcome State Fault Refusal :=
  match s.phase with
  | .idle =>
    match fetch s with
    | some (i, t) => exec i t
    | none => .next s
  | .xfer => microStep s
  | .sleep => microStep s

/-- The state in which the host presents the command of a table word next (DESIGN CHOICE, safe,
assumption 11). A word that decodes to no
command cannot be presented (R89): the host then presents nothing. -/
def State.withFetchWord (s : State) (nbits w : Nat) : State :=
  match decodeTableWord nbits w with
  | some i => present i s
  | none => presentNone s

end Sys2Proof.Machine
end

