-- ==== Sys2Proof/Machine/Macros.lean ====
section
/-! DEFINITION. The host's composite operations over whole commands (44_host_sequences.md rules R161 to R163, R166
and R171; 30_encoding.md rule R93). They are software above the block: each is a sequence of `exec` calls and adds
nothing to the wire format. -/
namespace Sys2Proof.Machine

/-! ## Field helpers (R161) -/

/-- `fmask(o, w) = ((1 << w) - 1) << o`. -/
def fmask (o w : Nat) : Word := ((1#32 <<< w) - 1#32) <<< o

/-- `get(word, o, w) = (word >> o) & ((1 << w) - 1)`. -/
def getField (word : Word) (o w : Nat) : Word := (word >>> o) &&& ((1#32 <<< w) - 1#32)

/-- `put(word, o, w, x) = (word & ~fmask(o, w)) | ((x << o) & fmask(o, w))`. -/
def putField (word : Word) (o w : Nat) (x : Word) : Word :=
  (word &&& ~~~(fmask o w)) ||| ((x <<< o) &&& fmask o w)

/-! ## Read-modify-write (R162, R163) -/

/-- The word an `RMW` writes back: the bits of the mask replaced, all others kept (R162). -/
def overlay (w m x : Word) : Word := (w &&& ~~~m) ||| (x &&& m)

/-- `RMW a, m, x` (R162): a READ, then a WRITE of the overlaid word; it stops with `BUS_IO_ERR` if the READ gives no
word. The two are separate commands: it is not atomic (R62). -/
def rmw (a : Addr) (m x : Word) (s : State) : Host.Outcome State Fault Refusal :=
  match exec (.read a) s with
  | .next t =>
    match t.hostResult with
    | some (.ok, some w) => exec (.write a (overlay w m x)) t
    | _ => .next t
  | .fault f => .fault f
  | .refused r => .refused r

/-- The bit offset of the byte at address `b` in its word: `8 * (b & 3)` (R163). -/
def laneShift (b : Addr) : Nat := 8 * (b &&& 0x003#12).toNat

/-- `WRITEB b, y` (R163): the update of one byte, as an `RMW` of the word at `b & 0xFFC`. -/
def writeb (b : Addr) (y : Byte) (s : State) : Host.Outcome State Fault Refusal :=
  rmw (b &&& 0xFFC#12) (0x000000FF#32 <<< laneShift b) (y.setWidth 32 <<< laneShift b) s

/-! ## The polled wait (R166, R171) -/

/-- The host's error enumeration (R171). Only `OK` and `BUS_IO_ERR` come from the block. -/
inductive HostCode where
  | ok
  | busIoErr
  | oscUnstable
  | sclkUnstable
  | modeTimeout
  | wrongDevice
  | badTiming
  | ramOverflow
  | badFilterTarget
  | controllerBusy
  deriving DecidableEq, Repr

/-- How a polled wait ends. -/
inductive PollEnd where
  | ended (code : HostCode) (s : State)
  | fault (f : Fault)
  | refused (r : Refusal)
  deriving Repr

/-- The retry budget of every polled wait (R166). -/
def pollBudget : Nat := 10000

/-- `POLL a, P, code` with at most `budget` reads (R166): it stops with `BUS_IO_ERR` at a failed READ, with `OK` at
the first word that meets `P`, and with `code` when the budget is spent. The sleeps between reads change no frame and
no state: DESIGN CHOICE, safe (assumption 17). -/
def poll (a : Addr) (P : Word → Bool) (code : HostCode) : Nat → State → PollEnd
  | 0, s => .ended code s
  | budget + 1, s =>
    match exec (.read a) s with
    | .next t =>
      match t.hostResult with
      | some (.ok, some w) => if P w then .ended .ok t else poll a P code budget t
      | _ => .ended .busIoErr t
    | .fault f => .fault f
    | .refused r => .refused r

end Sys2Proof.Machine
end

