-- ==== Sys2Proof/Machine/Wire.lean ====
section
/-! DEFINITION. Reading the log of the bus: the level of chip-select, the frame being sent and the frames that were
sent (10_state.md rules R34 and R35, 70_reset_and_hazards.md rule R230). -/
namespace Sys2Proof.Machine

/-- The chip-select level after a sequence of events that starts at level `c`; `none` if the sequence breaks the
discipline of R35: an assertion of an asserted line, a release of a released one, a byte while it is released, a
sleep while it is asserted. -/
def wireLevel : ChipSelect → List WireEvent → Option ChipSelect
  | c, [] => some c
  | .released, .csLow :: w => wireLevel .asserted w
  | .released, .slept _ :: w => wireLevel .released w
  | .asserted, .byte _ :: w => wireLevel .asserted w
  | .asserted, .csHigh :: w => wireLevel .released w
  | .released, .byte _ :: _ => none
  | .released, .csHigh :: _ => none
  | .asserted, .csLow :: _ => none
  | .asserted, .slept _ :: _ => none

/-- The bytes taken since the last assertion of chip-select, after the bytes `acc` before the sequence. -/
def openFrame : List Byte → List WireEvent → List Byte
  | acc, [] => acc
  | _, .csLow :: w => openFrame [] w
  | acc, .byte b :: w => openFrame (acc ++ [b]) w
  | acc, .csHigh :: w => openFrame acc w
  | acc, .slept _ :: w => openFrame acc w

/-- The frames of a sequence, one for each release of chip-select: all the bytes between an assertion and the next
release (R80, R90). `acc` holds the bytes of a frame that began before the sequence. -/
def framesFrom : List Byte → List WireEvent → List (List Byte)
  | _, [] => []
  | _, .csLow :: w => framesFrom [] w
  | acc, .byte b :: w => framesFrom (acc ++ [b]) w
  | acc, .csHigh :: w => acc :: framesFrom [] w
  | acc, .slept _ :: w => framesFrom acc w

/-- The frames on the bus since reset, in order. -/
def wireFrames (w : List WireEvent) : List (List Byte) := framesFrom [] w

end Sys2Proof.Machine
end

