-- ==== Sys2Proof/Safety.lean ====
section
/-! DEFINITION. What counts as a safe run, in the terms the claims use: the invariant of the machine, what an
environment must do for a command to complete, and what two environments must share to be the same to the block. -/
namespace Sys2Proof.Machine

/-- THE INVARIANT. Memory is in canonical form; chip-select is asserted exactly in `XFER` (R35); the events on the
wire obey the discipline of R35 and leave the line at the level of `CS`; in `XFER` the frame in flight is the frame
of the latched command, `IDX ≤ LEN`, and the bytes taken since chip-select was asserted are its first `IDX` bytes
(R28, R29, R34); in `SLEEP` the command is a RESET (R31). -/
def State.Inv (s : State) : Prop :=
  s.mem.wf = true ∧
  (s.cs = .asserted ↔ s.phase = .xfer) ∧
  wireLevel .released s.wire = some s.cs ∧
  (s.phase = .xfer →
    s.len.toNat = frameLen s.latched ∧ s.idx.toNat ≤ s.len.toNat ∧ s.frame = frameBytes s.latched ∧
    openFrame [] s.wire = s.frame.take s.idx.toNat) ∧
  (s.phase = .sleep → s.op = .reset)

/-! ## What the bus environment does with the next exchange, byte by byte (R33)

The choices on `tape` come first; past its end the real device's choices are draws, and the reference device never cuts
an exchange short (R152). -/

/-- Which draw answers byte `k` of the next exchange, once the tape is used up. -/
def State.drawAt (s : State) (k : Nat) : Nat := s.draws + (k - s.tape.length)

/-- The environment exchanges each of the next `n` bytes (R29). -/
def State.moves (s : State) (n : Nat) : Prop :=
  ∀ k < n, (∃ b, s.tape[k]? = some (.moved b)) ∨
    (s.tape[k]? = none ∧ (s.device = .oracle → Config.freeCut (s.drawAt k) = false))

/-- The environment exchanges the next `n` bytes and cuts the exchange short at byte `n` (R30). -/
def State.cutsAt (s : State) (n : Nat) : Prop :=
  s.moves n ∧ (s.tape[n]? = some .cut ∨
    (s.tape[n]? = none ∧ s.device = .oracle ∧ Config.freeCut (s.drawAt n) = true))

/-- The environment exchanges the next `n` bytes and never returns from byte `n` (R36, U16). -/
def State.hangsAt (s : State) (n : Nat) : Prop := s.moves n ∧ s.tape[n]? = some .hang

/-- Until it cuts the next exchange of `n` bytes, the bus primitive returns from every byte (R36, R225). -/
def State.busReturns (s : State) (n : Nat) : Prop := ∀ k < n, ¬ s.hangsAt k

/-- The environment's own choice for the byte captured while byte `k` of the next exchange is sent (R33). -/
def State.choice (s : State) (k : Nat) : Byte :=
  match s.tape[k]? with
  | some (.moved b) => b
  | _ => Config.freeByte (s.drawAt k)

/-- The byte captured while byte `k` of the frame of command `i` is sent: with the real device the environment's
choice (R33); with the reference device zero filler and, in the payload of a READ, the addressed word (R121, R152);
with unknown contents the environment's choice there (U3). -/
def State.answer (s : State) (i : Instr) (k : Nat) : Byte :=
  match s.device, i with
  | .oracle, _ => s.choice k
  | .reference, .read a =>
    match s.mem.read32 a with
    | some w => if k < 2 then 0 else wordByte w (k - 2)
    | none => 0
  | .unknown, .read _ => if k < 2 then 0 else s.choice k
  | _, _ => 0

/-- The reference device holds a value for what command `i` reads; no condition on any other device (R150). -/
def State.answers (s : State) (i : Instr) : Prop :=
  ∀ a, i = .read a → s.device = .reference → s.mem.read32 a ≠ none

/-- Two states have the same bus environment: the device, its contents, and the choices to come (R33). -/
def SameEnvironment (s t : State) : Prop :=
  s.device = t.device ∧ s.mem = t.mem ∧ s.tape = t.tape ∧ s.draws = t.draws

/-- `n` steps of the machine. -/
def steps : Nat → State → Host.Outcome State Fault Refusal
  | 0, s => .next s
  | n + 1, s =>
    match step s with
    | .next t => steps n t
    | .fault f => .fault f
    | .refused r => .refused r

end Sys2Proof.Machine
end

