-- ==== Sys2Proof/Certificates/Slice0/Obligations.lean ====
section
/-! DEFINITION. The statements for the provers. Each names the rules of spec/ it formalises; a statement that rests on
a choice of the model says so and names the log entry. -/
open Sys2Proof Sys2Proof.Machine

/-! ## Encoding -/

/-- R83: header assembly by the rule's own formula, on numbers, and as the concatenation `CMD :: ADDR[11:8]`,
`ADDR[7:0]`; no scaling, extension or check of the address. -/
def Obligations.HeaderIsCmdThenAddress : Prop :=
  ∀ (c : CmdCode) (a : Addr),
    hdr c a = [c ++ a.extractLsb' 8 4, a.extractLsb' 0 8] ∧
    ∀ h0 h1, hdr c a = [h0, h1] →
      h0.toNat = (c.toNat <<< 4) ||| ((a.toNat >>> 8) &&& 0x0F) ∧
      h1.toNat = a.toNat &&& 0xFF ∧
      headerWord h0 h1 = c ++ a

/-- R84: packing and unpacking by the rule's own formulas, on numbers; as fields, packing takes the four bytes from
the least significant up and unpacking puts the last byte in bits 31:24, its bit 7 in bit 31. -/
def Obligations.PayloadIsLittleEndian : Prop :=
  (∀ v : Word, (pack32 v).map BitVec.toNat =
    [v.toNat &&& 0xFF, (v.toNat >>> 8) &&& 0xFF, (v.toNat >>> 16) &&& 0xFF, (v.toNat >>> 24) &&& 0xFF] ∧
    pack32 v = [v.extractLsb' 0 8, v.extractLsb' 8 8, v.extractLsb' 16 8, v.extractLsb' 24 8]) ∧
  (∀ b0 b1 b2 b3 : Byte, (unpack32 b0 b1 b2 b3).toNat =
    b0.toNat ||| (b1.toNat <<< 8) ||| (b2.toNat <<< 16) ||| (b3.toNat <<< 24) ∧
    unpack32 b0 b1 b2 b3 = b3 ++ b2 ++ b1 ++ b0 ∧
    (unpack32 b0 b1 b2 b3).getLsbD 31 = b3.getLsbD 7)

/-- 30_encoding.md section 2: the laws of the assembly functions (R85, which the spec marks as derived). -/
def Obligations.AssemblyFunctionsAreBijections : Prop :=
  (∀ v : Word, ∃ b0 b1 b2 b3, pack32 v = [b0, b1, b2, b3] ∧ unpack32 b0 b1 b2 b3 = v) ∧
  (∀ b0 b1 b2 b3 : Byte, pack32 (unpack32 b0 b1 b2 b3) = [b0, b1, b2, b3]) ∧
  (∀ (c : CmdCode) (a : Addr) (h0 h1 : Byte), hdr c a = [h0, h1] →
    c = (h0 >>> 4).setWidth 4 ∧ a = ((h0 &&& 0x0F#8).setWidth 12 <<< 8) ||| h1.setWidth 12) ∧
  (∀ h0 h1 : Byte, ∃ c a, hdr c a = [h0, h1]) ∧
  (∀ b0 b1 b2 b3 : Byte, unpack32 b0 b1 b2 b3 =
    b0.setWidth 32 + (b1.setWidth 32 <<< 8) + (b2.setWidth 32 <<< 16) + (b3.setWidth 32 <<< 24))

/-- R86: the frame of each command and its length, and the same frames field by field. -/
def Obligations.FrameOfEachCommand : Prop :=
  (frameBytes .reset = [0x00#8, 0x00#8] ∧ frameBytes .reset = hdr 0x0#4 0x000#12 ∧ frameLen .reset = 2) ∧
  (∀ a : Addr, frameLen (.read a) = 6 ∧ frameBytes (.read a) = hdr 0x3#4 a ++ [0, 0, 0, 0] ∧
    frameBytes (.read a) = [0x3#4 ++ a.extractLsb' 8 4, a.extractLsb' 0 8, 0, 0, 0, 0]) ∧
  (∀ (a : Addr) (v : Word), frameLen (.write a v) = 6 ∧ frameBytes (.write a v) = hdr 0x2#4 a ++ pack32 v ∧
    frameBytes (.write a v) = [0x2#4 ++ a.extractLsb' 8 4, a.extractLsb' 0 8, v.extractLsb' 0 8,
      v.extractLsb' 8 8, v.extractLsb' 16 8, v.extractLsb' 24 8])

/-- 20_memory.md section 3 (R57): payload byte `j` of a WRITE, frame byte `2 + j`, is `v[8 j + 7 : 8 j]`; the word of a
READ is rebuilt the same way from the captured bytes; with more words each is little-endian and they are concatenated.

In the READ clause the captured bytes are `State.answer`: the environment's choice with the real device, the addressed
word with the reference device (assumption 15, the spec's own decision D15), and a free payload with an unknown device
(assumption 7, DESIGN CHOICE on the form). -/
def Obligations.PayloadByteOrder : Prop :=
  (∀ (a : Addr) (v : Word) (j : Nat), j < 4 → (encode (.write a v))[2 + j]? = some (v.extractLsb' (8 * j) 8)) ∧
  (∀ (a : Addr) (s t : State), s.phase = .idle → exec (.read a) s = .next t → t.status = .ok →
    ∀ j b, j < 4 → b < 8 → t.rdata.getLsbD (8 * j + b) = (s.answer (.read a) (2 + j)).getLsbD b) ∧
  (∀ (c : CmdCode) (a : Addr) (ws : List Word) (w j : Nat) (v : Word), j < 4 → ws[w]? = some v →
    (wireFormat c a ws)[2 + 4 * w + j]? = some (v.extractLsb' (8 * j) 8))

/-- R58: the header is `CMD :: ADDR` with byte 0 in the high half; within every byte the most significant bit is on
the wire first, so the code's and then the address's bits travel in descending order and the word as `v[7..0],
v[15..8], v[23..16], v[31..24]`. -/
def Obligations.WireOrderOfHeaderAndWord : Prop :=
  (∀ (c : CmdCode) (a : Addr) (h0 h1 : Byte), hdr c a = [h0, h1] → headerWord h0 h1 = c ++ a) ∧
  (∀ (i : Instr) (k : Nat), k < 4 → (wireBits (encode i))[k]? =
    some ((match i with | .reset => 0x0#4 | .write _ _ => 0x2#4 | .read _ => 0x3#4).getLsbD (3 - k))) ∧
  (∀ (i : Instr) (k : Nat), k < 12 → (wireBits (encode i))[4 + k]? = some (i.addrOperand.getLsbD (11 - k))) ∧
  (∀ (a : Addr) (v : Word) (j b : Nat), j < 4 → b < 8 →
    (wireBits (encode (.write a v)))[16 + (8 * j + b)]? = some (v.getLsbD (8 * j + (7 - b))))

/-- 00_scope.md, section 5: wire bit `8 i + j` of a frame is `tx[i][7 - j]`, and the bits in order are `wireBits`. -/
def Obligations.WireBitsGoMostSignificantFirst : Prop :=
  ∀ (f : List Byte) (i j : Nat), j < 8 →
    wireBit f (8 * i + j) = (f[i]?).map (fun b => b.getLsbD (7 - j)) ∧
    (wireBits f)[8 * i + j]? = (f[i]?).map (fun b => b.getLsbD (7 - j))

/-- 43, section 1: `decode_header` and its two inverse laws (R140, which the spec marks as derived). -/
def Obligations.DecodeHeaderInvertsHeader : Prop :=
  (∀ h0 h1 : Byte, decodeHeader h0 h1 = (h0.extractLsb' 4 4, h0.extractLsb' 0 4 ++ h1)) ∧
  (∀ (c : CmdCode) (a : Addr) (h0 h1 : Byte), hdr c a = [h0, h1] → decodeHeader h0 h1 = (c, a)) ∧
  (∀ h0 h1 : Byte, hdr (decodeHeader h0 h1).1 (decodeHeader h0 h1).2 = [h0, h1])

/-- 43, section 1: every row of the decoder's table (R141; the refused rows are the spec's own decisions D12 and
D13). -/
def Obligations.DecodeFrameTable : Prop :=
  (∀ f : List Byte, f.length < 2 → decodeFrame f = .refused .noHeader) ∧
  (∀ (h0 h1 : Byte) (p : List Byte) (c : CmdCode) (a : Addr), decodeHeader h0 h1 = (c, a) →
    (c = 0x0 → p = [] → a = 0 → decodeFrame (h0 :: h1 :: p) = .ok .reset) ∧
    (c = 0x0 → (p ≠ [] ∨ a ≠ 0) → decodeFrame (h0 :: h1 :: p) = .refused .malformedReset) ∧
    (c = 0x2 → ∀ b0 b1 b2 b3, p = [b0, b1, b2, b3] →
      decodeFrame (h0 :: h1 :: p) = .ok (.write a (unpack32 b0 b1 b2 b3))) ∧
    (c = 0x3 → p.length = 4 → decodeFrame (h0 :: h1 :: p) = .ok (.read a)) ∧
    (c = 0x2 ∨ c = 0x3 → ∀ k, 2 ≤ k → p.length = 4 * k →
      decodeFrame (h0 :: h1 :: p) = .refused .multiWord) ∧
    (c = 0x2 ∨ c = 0x3 → (∀ k, 1 ≤ k → p.length ≠ 4 * k) →
      decodeFrame (h0 :: h1 :: p) = .refused .badLength) ∧
    (c = 0xA ∨ c = 0xB ∨ c = 0xC → decodeFrame (h0 :: h1 :: p) = .refused .reservedCrcSafe) ∧
    (c = 0x1 ∨ (0x4 ≤ c ∧ c ≤ 0x9) ∨ 0xD ≤ c → decodeFrame (h0 :: h1 :: p) = .refused .unknownCmd))

/-- Decode and encode agree for EVERY command, different commands give different frames, a decoded frame is the
command's frame up to the ignored payload of a READ, and the image of the encoder (R143, which the spec marks as
derived). -/
def Obligations.DecodeAndEncodeAgree : Prop :=
  (∀ i : Instr, decodeFrame (encode i) = .ok i) ∧
  (∀ i j : Instr, encode i = encode j → i = j) ∧
  (∀ (f : List Byte) (i : Instr), decodeFrame f = .ok i →
    encode i = f ∨
    ∃ a h0 h1 p, i = .read a ∧ f = h0 :: h1 :: p ∧ p.length = 4 ∧ p ≠ [0, 0, 0, 0] ∧
      encode i = [h0, h1, 0, 0, 0, 0]) ∧
  (∀ f : List Byte, (∃ i, encode i = f) ↔
    f = [0x00#8, 0x00#8] ∨
    (∃ h0 h1 p, f = h0 :: h1 :: p ∧ p.length = 4 ∧ headerCmd h0 = 0x2) ∨
    (∃ h0 h1, f = [h0, h1, 0, 0, 0, 0] ∧ headerCmd h0 = 0x3))

/-- 30_encoding.md sections 3 and 4: a frame of the wire protocol is one the decoder reads or one with two or more
words, and such a frame of two or more words is refused by name. -/
def Obligations.WellFormedFramesAreDecodedOrMultiWord : Prop :=
  (∀ f : List Byte, frameWf f = true ↔ (∃ i, decodeFrame f = .ok i) ∨ decodeFrame f = .refused .multiWord) ∧
  (∀ (c : CmdCode) (a : Addr) (ws : List Word), c = 0x2 ∨ c = 0x3 → 2 ≤ ws.length →
    decodeFrame (wireFormat c a ws) = .refused .multiWord)

/-- 30_encoding.md section 7 (R94, which the spec marks as derived): the rows of the opcode table do not overlap, a
row is selected by a header exactly when the header has the row's command code (and, for RESET, address zero), and a
frame of a row's length decodes to the row's command. -/
def Obligations.OpcodeTableSelectsCommands : Prop :=
  (∀ h r q, r ∈ opcodeTable → q ∈ opcodeTable → r.selects h = true → q.selects h = true → r = q) ∧
  (∀ (h0 h1 : Byte) (p : List Byte) (r : OpcodeRow), r ∈ opcodeTable → p.length + 2 = r.frameBytes →
    (r.selects (headerWord h0 h1) = true ↔
      ∃ i, decodeFrame (h0 :: h1 :: p) = .ok i ∧
        r.mnemonic = (match i with | .reset => "RESET" | .write _ _ => "WRITE" | .read _ => "READ")))

/-- Words written out from the frame formats of 30_encoding.md section 1 and from the vectors of 95_test_vectors.md
decode to the commands they stand for. -/
def Obligations.SampleWordsDecode : Prop :=
  decodeFrame [0b00000000#8, 0b00000000#8] = .ok .reset ∧
  decodeFrame [0b00100001#8, 0b00100011#8, 0b11101111#8, 0b11001101#8, 0b10101011#8, 0b10001001#8] =
    .ok (.write 0x123 0x89ABCDEF) ∧
  decodeFrame [0b00111110#8, 0b00000000#8, 0#8, 0#8, 0#8, 0#8] = .ok (.read 0xE00) ∧
  decodeFrame [0x2A#8, 0xBC#8, 0x78#8, 0x56#8, 0x34#8, 0x12#8] = .ok (.write 0xABC 0x12345678) ∧
  decodeTableWord 16 0x3E14 = some (.read 0xE14)

/-! ## Reset -/

/-- 10_state.md section 3 (R38, the spec's own decision D10): what the block's own reset leaves, as far as the spec
gives values. Nothing has completed, so nothing has written `STATUS`, no command has a result, and `RDATA` is not
valid. (The values the model gives the registers without one are assumption 1 and are not stated.) -/
def Obligations.ResetLeavesIdleAndReleased : Prop :=
  State.reset.phase = .idle ∧ State.reset.cs = .released ∧
  State.reset.statusWritten = false ∧ State.reset.hostResult = none ∧
  State.reset.hostRdata = .error .rdataNotValid

/-! ## What each command does, with every bus environment -/

/-- 40_reset_command.md (R110): RESET, for every bus environment. If its two bytes are exchanged it sleeps at least
two milliseconds with chip-select released and completes with `OK` and a status only: everything it leaves. If the
exchange is cut short it ends with `BUS_IO_ERR` and does not sleep.

The model's choices and the spec's own decisions in it: that an unknown device is the reference device again
(assumption 7); that the device acts at the completion, with `mem := resetMemory` (assumption 13, D15); the zero
filler in `RX` (assumption 15, D15); `tape` and `draws` (assumptions 3, 4, 15, 19); chip-select after a cut
(assumption 9, D8). -/
def Obligations.ResetCompletes : Prop :=
  ∀ s : State, s.phase = .idle →
    (s.moves 2 → ∃ ms t, 2 ≤ ms ∧ exec .reset s = .next t ∧ t.hostResult = some (.ok, none) ∧
      t = { s with
        op := .reset
        addr := 0x000
        tx := { s.tx with b0 := 0x00, b1 := 0x00 }
        rx := { s.rx with b0 := s.answer .reset 0, b1 := s.answer .reset 1 }
        len := 2
        idx := 2
        cs := .released
        phase := .idle
        status := .ok
        completed := some .reset
        device := if s.device = .unknown then .reference else s.device
        mem := if s.device = .oracle then s.mem else resetMemory
        tape := s.tape.drop 2
        draws := s.draws + (2 - s.tape.length) + 1
        wire := s.wire ++ [.csLow, .byte 0x00, .byte 0x00, .csHigh, .slept ms] }) ∧
    (∀ n < 2, s.cutsAt n → ∃ t, exec .reset s = .next t ∧ t.hostResult = some (.busIoErr, none) ∧
      t.phase = .idle ∧ t.cs = .released ∧ t.wdata = s.wdata ∧ t.rdata = s.rdata ∧
      t.wire = s.wire ++ [.csLow] ++ List.replicate n (.byte 0x00) ++ [.csHigh])

/-- 41_read_command.md (R120): READ, for every bus environment. If its six bytes are exchanged it completes with `OK`
and the word of the captured bytes 2 to 5, the last one in bits 31:24: everything it leaves. If the exchange is cut
short, at any byte, it ends with `BUS_IO_ERR` alone and `RDATA` is not written.

The model's choices and the spec's own decisions in it, inside `State.answer`: the zero filler and the word of the
reference device (assumption 15, D15) and the free payload of an unknown device (assumption 7); further `tape` and
`draws` (assumptions 3, 15, 19) and chip-select after a cut (assumption 9, D8). A READ of a word without a value is
`ReadOfNoValueFaults`. -/
def Obligations.ReadCompletes : Prop :=
  ∀ (a : Addr) (s : State), s.phase = .idle →
    (s.moves 6 → s.answers (.read a) → ∃ t, exec (.read a) s = .next t ∧ t.hostResult = some (.ok, some t.rdata) ∧
      t = { s with
        op := .read
        addr := a
        tx := ⟨0x3#4 ++ a.extractLsb' 8 4, a.extractLsb' 0 8, 0, 0, 0, 0⟩
        rx := ⟨s.answer (.read a) 0, s.answer (.read a) 1, s.answer (.read a) 2, s.answer (.read a) 3,
          s.answer (.read a) 4, s.answer (.read a) 5⟩
        len := 6
        idx := 6
        cs := .released
        phase := .idle
        status := .ok
        rdata := s.answer (.read a) 5 ++ s.answer (.read a) 4 ++ s.answer (.read a) 3 ++ s.answer (.read a) 2
        completed := some .read
        tape := s.tape.drop 6
        draws := s.draws + (6 - s.tape.length)
        wire := s.wire ++ [.csLow, .byte (0x3#4 ++ a.extractLsb' 8 4), .byte (a.extractLsb' 0 8), .byte 0, .byte 0,
          .byte 0, .byte 0, .csHigh] }) ∧
    (∀ n < 6, s.cutsAt n → s.answers (.read a) ∨ n ≤ 2 → ∃ t, exec (.read a) s = .next t ∧
      t.hostResult = some (.busIoErr, none) ∧ t.phase = .idle ∧ t.cs = .released ∧ t.wdata = s.wdata ∧
      t.rdata = s.rdata)

/-- 42_write_command.md (R130): WRITE, for every bus environment. If its six bytes are exchanged it completes with
`OK` and a status only: everything it leaves; the captured bytes are stored in `RX` and used for nothing. If the
exchange is cut short, at any byte, it ends with `BUS_IO_ERR`.

The model's choices and the spec's own decisions in it: that the reference device stores at the completion (assumption
13, D15); that unknown contents are kept as they are (assumption 7); the zero filler in `RX` (assumption 15, D15);
`tape` and `draws` (assumptions 3, 15, 19); chip-select after a cut (assumption 9, D8). -/
def Obligations.WriteCompletes : Prop :=
  ∀ (a : Addr) (v : Word) (s : State), s.phase = .idle →
    (s.moves 6 → ∃ t, exec (.write a v) s = .next t ∧ t.hostResult = some (.ok, none) ∧
      t = { s with
        op := .write
        addr := a
        wdata := v
        tx := ⟨0x2#4 ++ a.extractLsb' 8 4, a.extractLsb' 0 8, v.extractLsb' 0 8, v.extractLsb' 8 8,
          v.extractLsb' 16 8, v.extractLsb' 24 8⟩
        rx := ⟨s.answer (.write a v) 0, s.answer (.write a v) 1, s.answer (.write a v) 2, s.answer (.write a v) 3,
          s.answer (.write a v) 4, s.answer (.write a v) 5⟩
        len := 6
        idx := 6
        cs := .released
        phase := .idle
        status := .ok
        completed := some .write
        mem := if s.device = .reference then s.mem.write32 a v else s.mem
        tape := s.tape.drop 6
        draws := s.draws + (6 - s.tape.length)
        wire := s.wire ++ [.csLow, .byte (0x2#4 ++ a.extractLsb' 8 4), .byte (a.extractLsb' 0 8),
          .byte (v.extractLsb' 0 8), .byte (v.extractLsb' 8 8), .byte (v.extractLsb' 16 8),
          .byte (v.extractLsb' 24 8), .csHigh] }) ∧
    (∀ n < 6, s.cutsAt n → ∃ t, exec (.write a v) s = .next t ∧ t.hostResult = some (.busIoErr, none) ∧
      t.phase = .idle ∧ t.cs = .released ∧ t.wdata = v ∧ t.rdata = s.rdata)

/-- 60_exceptions.md sections 1 and 4 (R192, the spec's own decision D8): an exchange cut short at any byte raises
`BUS_IO_ERR`, for every command: what the fault leaves, and that nothing else changes. That `IDX` and `RX` keep what
the exchange left is the model's reading (assumption 8); that the device becomes unknown is U3. -/
def Obligations.ShortExchangeRaisesBusIoErr : Prop :=
  ∀ (i : Instr) (s : State) (n : Nat), s.phase = .idle → n < frameLen i → s.cutsAt n →
    (s.answers i ∨ n ≤ 2) →
    exec i s = .next { s with
      op := i.op
      addr := i.addrOperand
      wdata := i.wdataOperand s.wdata
      tx := s.tx.load 0 (frameBytes i)
      rx := s.rx.load 0 ((List.range n).map (s.answer i))
      len := BitVec.ofNat 3 (frameLen i)
      idx := BitVec.ofNat 3 n
      cs := .released
      phase := .idle
      status := .busIoErr
      completed := some i.op
      device := if s.device = .oracle then .oracle else .unknown
      tape := s.tape.drop (n + 1)
      draws := s.draws + (n + 1 - s.tape.length)
      wire := s.wire ++ [.csLow] ++ ((frameBytes i).take n).map .byte ++ [.csHigh] }

/-- 43, section 2 (R150, the spec's own decision D15): a READ answered by the reference device faults when the word
has no value, whatever the rest of the state. That the fault is found at the third byte, even if a later byte would be
cut, and that it carries the word's address is the model's DESIGN CHOICE (assumption 6). -/
def Obligations.ReadOfNoValueFaults : Prop :=
  ∀ (a : Addr) (s : State), s.phase = .idle → s.moves 3 → s.device = .reference → s.mem.read32 a = none →
    exec (.read a) s = .fault (.noDeviceValue a)

/-- 10_state.md section 2 (R36) and U16: a bus primitive that never returns hangs the block. -/
def Obligations.HungBusStopsTheBlock : Prop :=
  ∀ (i : Instr) (s : State) (n : Nat), s.phase = .idle → n < frameLen i → s.hangsAt n → (s.answers i ∨ n ≤ 2) →
    exec i s = .fault .busHung

/-- Every command of an idle block completes, with `OK` or with `BUS_IO_ERR`, whenever the bus primitive returns
and the reference device holds a value for what it reads; free values decide the rest. It rests on the fair environment
of assumption 14 (DESIGN CHOICE, unsafe for liveness): a drawn bus never hangs, and the sleep of a RESET always
returns, which is R36's premise. -/
def Obligations.EveryCommandCompletes : Prop :=
  ∀ (i : Instr) (s : State), s.phase = .idle → s.busReturns (frameLen i) → s.answers i →
    ∃ t, exec i s = .next t ∧ t.phase = .idle ∧ t.cs = .released ∧ t.completed = some i.op ∧
      (t.status = .ok ↔ s.moves (frameLen i))

/-- 10_state.md section 1 (R24): `STATUS` is written at the completion of every command: `OK` when the exchange moved
all its bytes (and, for RESET, the sleep returned), `BUS_IO_ERR` when it was short; the host reads it, and the status
port shows `0` and `1` (R191, the spec's own decision D7); no command depends on the status of an earlier one. At
block reset nothing has written it: it has no value then (R21), and what the host reads then is the model's
(assumption 1). That a wait returns is assumption 14. -/
def Obligations.StatusIsWrittenAtEveryCompletion : Prop :=
  (∀ (i : Instr) (s : State), s.phase = .idle →
    (s.moves (frameLen i) → s.answers i → ∃ t, exec i s = .next t ∧ t.status = .ok ∧
      t.statusWritten = true ∧ t.hostStatus = .ok ∧ t.statusPort = 0#1 ∧
      (i = .reset → ∃ ms w, t.wire = w ++ [.slept ms])) ∧
    (∀ n < frameLen i, s.cutsAt n → s.answers i ∨ n ≤ 2 → ∃ t, exec i s = .next t ∧ t.status = .busIoErr ∧
      t.statusWritten = true ∧ t.hostStatus = .busIoErr ∧ t.statusPort = 1#1) ∧
    (∀ st, exec i { s with status := st } = exec i s)) ∧
  State.reset.statusWritten = false

/-- 10_state.md section 2 (R28, the spec's own decision D18): a command offered to a busy block is not taken; nothing
changes. -/
def Obligations.BusyBlockTakesNoCommand : Prop :=
  ∀ (i : Instr) (s : State), s.phase ≠ .idle → exec i s = .next s

/-- 41_read_command.md (R123, the spec's own decision D9): `RDATA` is valid exactly after a READ that completed with
`OK`; then it is that READ's word; a faulted READ does not write it and leaves it not valid; WRITE and RESET do not
change it. -/
def Obligations.RdataValidity : Prop :=
  (∀ s : State, s.rdataValid = true ↔ s.completed = some .read ∧ s.status = .ok) ∧
  (∀ s : State, s.hostRdata = if s.rdataValid then .ok s.rdata else .error .rdataNotValid) ∧
  State.reset.rdataValid = false ∧
  (∀ (a : Addr) (s t : State), s.phase = .idle → exec (.read a) s = .next t →
    (t.status = .ok → t.hostRdata = .ok (unpack32 (s.answer (.read a) 2) (s.answer (.read a) 3)
      (s.answer (.read a) 4) (s.answer (.read a) 5))) ∧
    (t.status = .busIoErr → t.rdata = s.rdata ∧ t.hostRdata = .error .rdataNotValid)) ∧
  (∀ (i : Instr) (s t : State), i.op ≠ .read → exec i s = .next t → t.rdata = s.rdata)

/-- THE FRAME of the three commands, for every outcome with a next state: what no command changes, what only one
command changes, and what a RESET keeps of the buffers; memory byte by byte, with the addresses a WRITE stores to
computed by the operation its meaning uses.

While `t.device` is unknown (after a cut exchange with the reference device) the list `mem` is kept and is NOT the
device's memory, which is then a draw (U3, R132(f)): of such a state the memory clauses speak of the list alone
(assumption 7, DESIGN CHOICE on the form). -/
def Obligations.CommandFrame : Prop :=
  ∀ (i : Instr) (s t : State), exec i s = .next t →
    t.offers = s.offers ∧
    (i.op ≠ .write → t.wdata = s.wdata) ∧
    (i.op ≠ .read ∨ t.status = .busIoErr → t.rdata = s.rdata) ∧
    (i = .reset → t.tx = { s.tx with b0 := t.tx.b0, b1 := t.tx.b1 } ∧
      t.rx = { s.rx with b0 := t.rx.b0, b1 := t.rx.b1 }) ∧
    (s.device = .oracle → t.device = .oracle) ∧
    (∀ x : Addr, (∀ a, i = .read a → t.mem.get x.toNat = s.mem.get x.toNat) ∧
      (∀ a v, i = .write a v → (∀ j < 4, x ≠ byteAddr a j) → t.mem.get x.toNat = s.mem.get x.toNat) ∧
      (i = .reset → s.device = .oracle ∨ t.status = .busIoErr → t.mem.get x.toNat = s.mem.get x.toNat))

/-- 10_state.md section 1 and 90_conflicts.md C11: no command's behaviour depends on a value an earlier command left
in a register. Two idle blocks in the same environment, whatever their registers hold, stop alike or do the same on
the wire, give the host the same result and leave the same environment. -/
def Obligations.NoCommandDependsOnAnEarlierOne : Prop :=
  ∀ (i : Instr) (s t : State), s.phase = .idle → t.phase = .idle → SameEnvironment s t →
    (∀ f, exec i s = .fault f ↔ exec i t = .fault f) ∧
    (∀ s' t', exec i s = .next s' → exec i t = .next t' →
      s'.hostResult = t'.hostResult ∧ SameEnvironment s' t' ∧
      ∃ w, s'.wire = s.wire ++ w ∧ t'.wire = t.wire ++ w)

/-- 20_memory.md sections 5 and 7, 70 section 4: each command puts exactly one frame on the bus, under one
chip-select assertion: the whole frame of the command when it completes with `OK`, a proper beginning of it when it
completes with `BUS_IO_ERR`. Nothing is repeated, merged or dropped. -/
def Obligations.OneFramePerCommand : Prop :=
  ∀ (i : Instr) (s t : State), s.phase = .idle → exec i s = .next t →
    ∃ f, wireFrames t.wire = wireFrames s.wire ++ [f] ∧
      (t.status = .ok → f = encode i) ∧
      (t.status = .busIoErr → ∃ n, n < frameLen i ∧ f = (encode i).take n)

/-! ## The transaction machine -/

/-- 10_state.md section 2 (R28, the spec's own decision D3): `accept` latches the operands, builds the whole frame and
asserts chip-select, and nothing else; it happens in `IDLE` alone. -/
def Obligations.AcceptStep : Prop :=
  (∀ (i : Instr) (rest : List Instr) (s : State), s.phase = .idle → s.offers = i :: rest →
    microStep s = .next { s with
      op := i.op
      addr := (match i with | .reset => 0 | .write a _ => a | .read a => a)
      wdata := (match i with | .reset => s.wdata | .write _ v => v | .read _ => s.wdata)
      tx := (match i, frameBytes i with
        | .reset, [x0, x1] => { s.tx with b0 := x0, b1 := x1 }
        | _, [x0, x1, x2, x3, x4, x5] => ⟨x0, x1, x2, x3, x4, x5⟩
        | _, _ => s.tx)
      len := BitVec.ofNat 3 (frameLen i)
      idx := 0
      cs := .asserted
      phase := .xfer
      offers := rest
      wire := s.wire ++ [.csLow] }) ∧
  (∀ s t : State, s.phase ≠ .idle → microStep s = .next t → t.offers = s.offers)

/-- 10_state.md section 2 (R29, the spec's own decision D3): in step `byte` the environment takes `TX[IDX]`, the
captured byte `c` goes to `RX[IDX]`, `IDX` advances by one and chip-select stays asserted. With the real device `c` is
the environment's own choice. -/
def Obligations.ByteStep : Prop :=
  (∀ (s : State) (c sent : Byte), s.phase = .xfer → s.idx < s.len → s.moves 1 →
    s.tx.byte? s.idx.toNat = some sent →
    deviceByte s.device s.mem s.frame s.idx.toNat (s.choice 0) = .ok c →
    ∃ rx, microStep s = .next { s with
        rx := rx
        idx := s.idx + 1
        tape := s.tape.drop 1
        draws := s.draws + (1 - s.tape.length)
        wire := s.wire ++ [.byte sent] } ∧
      (∀ k, rx.byte? k = if k = s.idx.toNat then some c else s.rx.byte? k) ∧
      (s.idx + 1).toNat = s.idx.toNat + 1) ∧
  (∀ s : State, s.device = .oracle →
    deviceByte s.device s.mem s.frame s.idx.toNat (s.choice 0) = .ok (s.choice 0))

/-- 10_state.md section 2 (R30, the spec's own decisions D3 and D8): in step `short` chip-select is released, `STATUS`
is `BUS_IO_ERR`, the block is idle, `RDATA` is not written and no sleep follows. R30 is silent on the device: that the
reference device is unknown afterwards is U3, in the form of assumption 7 (DESIGN CHOICE). -/
def Obligations.ShortStep : Prop :=
  ∀ s : State, s.phase = .xfer → s.idx < s.len → s.idx < 6 → s.cutsAt 0 →
    microStep s = .next { s with
      cs := .released
      status := .busIoErr
      phase := .idle
      completed := some s.op
      device := if s.device = .oracle then .oracle else .unknown
      tape := s.tape.drop 1
      draws := s.draws + (1 - s.tape.length)
      wire := s.wire ++ [.csHigh] }

/-- 10_state.md section 2 (R31, the spec's own decision D3): step `finish`, by the command in `OP`, and everything it
leaves; that the device acts here, on the whole frame, is the model's (assumption 13). -/
def Obligations.FinishStep : Prop :=
  ∀ s : State, s.phase = .xfer → s.idx = s.len →
    let t : State := { s with
      cs := .released
      device := s.device.afterFrame s.frame
      mem := s.device.contentsAfter s.mem s.frame
      wire := s.wire ++ [.csHigh] }
    (s.op = .write → microStep s = .next { t with status := .ok, phase := .idle, completed := some .write }) ∧
    (s.op = .read → microStep s = .next { t with
      rdata := s.rx.b5 ++ s.rx.b4 ++ s.rx.b3 ++ s.rx.b2
      status := .ok
      phase := .idle
      completed := some .read }) ∧
    (s.op = .reset → microStep s = .next { t with phase := .sleep })

/-- 10_state.md section 2 (R32, the spec's own decision D3): in step `wake`, after a sleep of at least two
milliseconds `STATUS` is `OK` and the block is idle. -/
def Obligations.WakeStep : Prop :=
  ∀ s : State, s.phase = .sleep → ∃ ms, 2 ≤ ms ∧
    microStep s = .next { s with
      status := .ok
      phase := .idle
      completed := some s.op
      draws := s.draws + 1
      wire := s.wire ++ [.slept ms] }

/-- R35: (a) chip-select is asserted exactly while the block is in `XFER`, from `accept` to `finish` or `short`, and
one command asserts it once; (b) no byte is exchanged while it is released; (c) it is released in `IDLE` and `SLEEP`;
(d) asserted is the low level of the line. -/
def Obligations.ChipSelectDiscipline : Prop :=
  (∀ s t : State, (s.cs = .asserted ↔ s.phase = .xfer) → microStep s = .next t →
    (t.cs = .asserted ↔ t.phase = .xfer) ∧
    (∀ b, t.wire = s.wire ++ [.byte b] → s.cs = .asserted ∧ t.cs = .asserted) ∧
    (t.phase = .idle ∨ t.phase = .sleep → t.cs = .released)) ∧
  (∀ (i : Instr) (s t : State), s.phase = .idle → exec i s = .next t →
    t.wire.count .csLow = s.wire.count .csLow + 1 ∧ t.wire.count .csHigh = s.wire.count .csHigh + 1) ∧
  ChipSelect.asserted.level = false ∧ ChipSelect.released.level = true

/-- 10_state.md section 2 (R34): the small steps compose to exactly the big step, for every command, every state and
every bus environment, the stops included. -/
def Obligations.SmallStepsComposeToBigStep : Prop :=
  ∀ (i : Instr) (s : State), s.phase = .idle → settle settleFuel (accept i s) = exec i s

/-- One step of the machine runs the command the host presents, a block in the middle of a transaction takes the
next small step of it, and a word placed where the next command is presented is decoded and run. -/
def Obligations.StepRunsThePresentedCommand : Prop :=
  (∀ (i : Instr) (rest : List Instr) (s : State), s.phase = .idle → s.offers = i :: rest →
    step s = exec i { s with offers := rest }) ∧
  (∀ s : State, s.phase = .idle → s.offers = [] → step s = .next s) ∧
  (∀ s : State, s.phase ≠ .idle → step s = microStep s) ∧
  (∀ (s : State) (nbits w : Nat) (i : Instr), decodeTableWord nbits w = some i →
    step (s.withFetchWord nbits w) = exec i { s with phase := .idle, cs := .released })

/-- 20_memory.md section 7: the commands the host presents are run one at a time, each to its end, in the order it
presents them: their frames are on the bus in that order, one for each command, none reordered, combined or dropped. -/
def Obligations.CommandsRunInOrder : Prop :=
  ∀ s t : State, s.phase = .idle → steps s.offers.length s = .next t →
    t.phase = .idle ∧ t.offers = [] ∧
    ∃ fs, wireFrames t.wire = wireFrames s.wire ++ fs ∧ fs.length = s.offers.length ∧
      ∀ (k : Nat) (i : Instr) (f : List Byte), s.offers[k]? = some i → fs[k]? = some f → ∃ n, f = (encode i).take n

/-- The invariant holds after the block's own reset. -/
def Obligations.ResetMeetsInvariant : Prop := State.reset.Inv

/-- THE INVARIANT IS KEPT by every step of the machine (chip-select discipline of R35 and the frame in flight of R34
among it). -/
def Obligations.StepKeepsInvariant : Prop :=
  ∀ s t : State, s.Inv → step s = .next t → t.Inv

/-- The invariant is kept by every small step of the transaction machine. -/
def Obligations.SmallStepKeepsInvariant : Prop :=
  ∀ s t : State, s.Inv → microStep s = .next t → t.Inv

/-- From a state that meets the invariant neither machine is ever without a step: no step is refused, and one stops
only where the bus primitive never returns or the reference device holds no value (R150, U16). -/
def Obligations.OnlyTheEnvironmentStopsTheBlock : Prop :=
  ∀ s : State, s.Inv →
    (∀ r, step s ≠ .refused r ∧ microStep s ≠ .refused r) ∧
    (∀ f, step s = .fault f ∨ microStep s = .fault f → f = .busHung ∨ ∃ a, f = .noDeviceValue a)

/-! ## The reference device -/

/-- 43, section 2 (R151, the spec's own decision D15): `MemWrite(a, 4, v)` sets the four bytes at `(a + j) mod 4096`,
and changes nothing else. -/
def Obligations.MemWriteStoresFourBytes : Prop :=
  ∀ (m : Memory) (a : Addr) (v : Word),
    (∀ x : Addr, (m.write32 a v).get x.toNat =
      if (x - a).toNat < 4 then some (wordByte v (x - a).toNat) else m.get x.toNat) ∧
    (∀ n, 4096 ≤ n → (m.write32 a v).get n = m.get n) ∧
    (∀ j < 4, (byteAddr a j).toNat = (a.toNat + j) % 4096)

/-- 43, section 2 (R153, the spec's own decision D15): after a completed RESET the reference device holds the
documented reset words and no other byte. -/
def Obligations.ResetRestoresDocumentedWords : Prop :=
  ∀ s t : State, s.phase = .idle → s.device ≠ .oracle → exec .reset s = .next t → t.status = .ok →
    t.device = .reference ∧
    (∀ row ∈ resetTable, t.mem.read32 row.1 = some row.2) ∧
    resetTable = [(0x000, 0x04980760), (0x004, 0x003E0F0F), (0x008, 0x000E0303), (0x00C, 0x00021000),
      (0x01C, 0x00000000), (0x034, 0x00200000), (0x040, 0x00000400), (0xE00, 0x00000460), (0xE04, 0x00000003)] ++
      (List.range 32).map (fun n => (BitVec.ofNat 12 (0x050 + 12 * n), 0x00600400)) ∧
    (∀ x : Addr, (∀ row ∈ resetTable, 4 ≤ (x - row.1).toNat) → t.mem.get x.toNat = none)

/-- 43, section 2 (R154, on the spec's own decision D15): on the reference device a READ after a WRITE of the same
address returns the word written, for every address, aligned or not, and every word. -/
def Obligations.WriteThenReadReturnsTheWord : Prop :=
  ∀ (a : Addr) (v : Word) (s : State), s.phase = .idle → s.device = .reference → s.tape = [] →
    ∃ t u, exec (.write a v) s = .next t ∧ exec (.read a) t = .next u ∧
      t.hostResult = some (.ok, none) ∧ u.hostResult = some (.ok, some v)

/-- 60, section 4 and 93, U3: after a command that returned `BUS_IO_ERR` the reference device's contents are unknown,
and stay so until a RESET completes; the real device stays the real device. (The form, and that a READ returns a
free value meanwhile, is assumption 7, DESIGN CHOICE.) -/
def Obligations.FaultLeavesDeviceUnknownUntilReset : Prop :=
  ∀ (i : Instr) (s t : State), s.phase = .idle → exec i s = .next t →
    (s.device = .oracle → t.device = .oracle) ∧
    (s.device ≠ .oracle → t.status = .busIoErr → t.device = .unknown) ∧
    (s.device = .reference → t.status = .ok → t.device = .reference) ∧
    (s.device = .unknown → t.status = .ok → t.device = if i = .reset then .reference else .unknown)

/-! ## The host's composite operations -/

/-- 44, section 1 (R162): `RMW a, m, x` on a block whose READ gives `w` is the WRITE of `w` with the masked bits
replaced; it stops with `BUS_IO_ERR` and without a WRITE if the READ does. -/
def Obligations.RmwIsReadThenWrite : Prop :=
  ∀ (a : Addr) (m x : Word) (s t : State), s.phase = .idle → exec (.read a) s = .next t →
    (t.status = .ok → rmw a m x s = exec (.write a ((t.rdata &&& ~~~m) ||| (x &&& m))) t) ∧
    (t.status = .busIoErr → rmw a m x s = .next t)

/-- 44, section 1 (R163, with the lane rule of the spec's own decision D15): `WRITEB b, y` on the reference device
changes exactly the one byte at `b`, by two frames. -/
def Obligations.WritebChangesOneByte : Prop :=
  ∀ (b : Addr) (y : Byte) (s : State), s.phase = .idle → s.device = .reference → s.tape = [] →
    s.mem.read32 (b &&& 0xFFC#12) ≠ none →
    ∃ t, writeb b y s = .next t ∧ t.status = .ok ∧
      (∀ x : Addr, t.mem.get x.toNat = if x = b then some y else s.mem.get x.toNat) ∧
      (wireFrames t.wire).length = (wireFrames s.wire).length + 2

/-- 44, section 1 (R166): a polled wait with a budget of `n` puts at most `n` frames on the bus, all of them READs of
the polled address; it ends with `OK` only on a word that meets the predicate, and with the timeout code only after
`n` reads. -/
def Obligations.PollIsBounded : Prop :=
  ∀ (a : Addr) (P : Word → Bool) (code c : HostCode) (n : Nat) (s t : State), s.phase = .idle →
    code ≠ .ok → code ≠ .busIoErr → poll a P code n s = .ended c t →
    (∃ fs, wireFrames t.wire = wireFrames s.wire ++ fs ∧ fs.length ≤ n ∧
      (∀ f ∈ fs, ∃ k ≤ 6, f = (encode (.read a)).take k) ∧ (c = code → fs.length = n)) ∧
    (c = .ok → P t.rdata = true ∧ t.rdataValid = true) ∧
    (c = .ok ∨ c = .busIoErr ∨ c = code)

/-- 44, section 1 (R161, which the spec marks as derived): a field that was put holds the value, and the bits outside
the field are kept; what is read is the field. -/
def Obligations.FieldHelpers : Prop :=
  ∀ (word x : Word) (o w : Nat), 1 ≤ w → o + w ≤ 32 →
    (∀ k, k < 32 → (putField word o w x).getLsbD k =
      if o ≤ k ∧ k < o + w then x.getLsbD (k - o) else word.getLsbD k) ∧
    (∀ k, k < 32 → (getField word o w).getLsbD k = (decide (k < w) && word.getLsbD (o + k)))

/-! ## The address map -/

/-- 20_memory.md section 2 (R52 to R55): the bounds of the five regions, that they do not overlap, and the addresses in
none; the addresses of every register of the FIFO and filter tables, for every channel and filter, the regions they lie
in, and that the tables begin and end where their regions do; and the register addresses the spec lists. -/
def Obligations.AddressMap : Prop :=
  (∀ a : Addr,
    (regionOf a = some .canSfr ↔ a.toNat ≤ 0x04F) ∧
    (regionOf a = some .fifoTable ↔ 0x050 ≤ a.toNat ∧ a.toNat ≤ 0x1CF) ∧
    (regionOf a = some .filterTable ↔ 0x1D0 ≤ a.toNat ∧ a.toNat ≤ 0x2EF) ∧
    (regionOf a = some .messageRam ↔ 0x400 ≤ a.toNat ∧ a.toNat ≤ 0xBFF) ∧
    (regionOf a = some .deviceSfr ↔ 0xE00 ≤ a.toNat ∧ a.toNat ≤ 0xE17) ∧
    (regionOf a = none ↔
      (0x2F0 ≤ a.toNat ∧ a.toNat ≤ 0x3FF) ∨ (0xC00 ≤ a.toNat ∧ a.toNat ≤ 0xDFF) ∨ 0xE18 ≤ a.toNat)) ∧
  (∀ (a : Addr) (r q : Region), r.holds a = true → q.holds a = true → r = q) ∧
  (∀ n < 32,
    ((ciFIFOCON n).toNat = 0x050 + 12 * n ∧ regionOf (ciFIFOCON n) = some .fifoTable) ∧
    ((ciFIFOSTA n).toNat = 0x054 + 12 * n ∧ regionOf (ciFIFOSTA n) = some .fifoTable) ∧
    ((ciFIFOUA n).toNat = 0x058 + 12 * n ∧ regionOf (ciFIFOUA n) = some .fifoTable) ∧
    ((ciFLTCON n).toNat = 0x1D0 + n ∧ regionOf (ciFLTCON n) = some .filterTable) ∧
    ((ciFLTCONWord n).toNat = 0x1D0 + 4 * (n / 4) ∧ ciFLTCONWord n = ciFLTCON n &&& 0xFFC) ∧
    ((ciFLTOBJ n).toNat = 0x1F0 + 8 * n ∧ regionOf (ciFLTOBJ n) = some .filterTable) ∧
    ((ciMASK n).toNat = 0x1F4 + 8 * n ∧ regionOf (ciMASK n) = some .filterTable)) ∧
  (ciFIFOCON 0 = ciTXQCON ∧ ciFIFOSTA 0 = ciTXQSTA) ∧
  (ciFIFOCON 31 = 0x1C4 ∧ ciFIFOSTA 31 = 0x1C8 ∧ ciFIFOUA 31 = 0x1CC ∧ (ciFIFOUA 31).toNat + 3 = 0x1CF) ∧
  (ciFLTCON 31).toNat + 1 = (ciFLTOBJ 0).toNat ∧
  (ciFLTOBJ 31 = 0x2E8 ∧ ciMASK 31 = 0x2EC ∧ (ciMASK 31).toNat + 3 = 0x2EF) ∧
  (ciCON = 0x000 ∧ ciNBTCFG = 0x004 ∧ ciDBTCFG = 0x008 ∧ ciTDC = 0x00C ∧ ciINT = 0x01C ∧ ciTREC = 0x034 ∧
    ciTEFCON = 0x040 ∧ ciTEFSTA = 0x044 ∧ ciFIFOBA = 0x04C ∧ ciTXQCON = 0x050 ∧ ciTXQSTA = 0x054 ∧
    oscAddr = 0xE00 ∧ ioconAddr = 0xE04 ∧ devidAddr = 0xE14) ∧
  (∀ a ∈ [ciCON, ciNBTCFG, ciDBTCFG, ciTDC, ciINT, ciTREC, ciTEFCON, ciTEFSTA, ciFIFOBA, ciTXQCON, ciTXQSTA, oscAddr,
    ioconAddr, devidAddr], a.toNat % 4 = 0)
end

