-- ==== Sys2Proof/Laws/Environment.lean ====
section
/-! SUPPORT. When an environment moves, cuts or never answers the bytes of the next exchange (10_state.md rule R33),
for the two ways a state fixes it: by its tape, and by a device that never cuts. -/
namespace Sys2Proof.Machine

/-- A tape that begins with `bs` exchanges that many bytes. -/
theorem State.moves_of_tape (s : State) (bs : List Byte) (rest : List BusEvent) (n : Nat)
    (h : s.tape = bs.map .moved ++ rest) (hn : n ≤ bs.length) : s.moves n := by
  intro k hk
  refine .inl ⟨bs[k]'(by omega), ?_⟩
  have hk' : k < bs.length := by omega
  rw [h, List.getElem?_append_left (by simpa using hk')]
  simp [hk']

/-- A tape that cuts after `bs`. -/
theorem State.cutsAt_of_tape (s : State) (bs : List Byte) (rest : List BusEvent)
    (h : s.tape = bs.map .moved ++ .cut :: rest) : s.cutsAt bs.length :=
  ⟨s.moves_of_tape bs _ _ h (Nat.le_refl _), .inl (by simp [h])⟩

/-- A tape that never answers after `bs`. -/
theorem State.hangsAt_of_tape (s : State) (bs : List Byte) (rest : List BusEvent)
    (h : s.tape = bs.map .moved ++ .hang :: rest) : s.hangsAt bs.length :=
  ⟨s.moves_of_tape bs _ _ h (Nat.le_refl _), by simp [h]⟩

/-- Past the end of the tape the reference device never cuts (R152). -/
theorem State.moves_of_reference (s : State) (n : Nat) (hd : s.device ≠ .oracle) (ht : s.tape = []) :
    s.moves n := by
  intro k _
  exact .inr ⟨by simp [ht], fun h => absurd h hd⟩

/-- An exchange that moves `n` bytes moves its first `m`. -/
theorem State.moves_mono {s : State} {m n : Nat} (h : s.moves n) (hmn : m ≤ n) : s.moves m :=
  fun k hk => h k (Nat.lt_of_lt_of_le hk hmn)

/-- The bus primitive returns from every byte it moves. -/
theorem State.busReturns_of_moves {s : State} {n : Nat} (h : s.moves n) : s.busReturns n := by
  rintro k hk ⟨-, hh⟩
  rcases h k hk with ⟨b, hb⟩ | ⟨hb, -⟩
  · simp [hb] at hh
  · simp [hb] at hh

/-- WHAT AN ENVIRONMENT CAN DO with the next `n` bytes: move them all, or cut or hang at the first it does not. -/
theorem State.moves_or_stops (s : State) (n : Nat) : s.moves n ∨ ∃ k < n, s.cutsAt k ∨ s.hangsAt k := by
  induction n with
  | zero => exact .inl fun k hk => absurd hk (Nat.not_lt_zero k)
  | succ n ih =>
    rcases ih with h | ⟨k, hk, h⟩
    · have ext (hn : (∃ b, s.tape[n]? = some (.moved b)) ∨
          (s.tape[n]? = none ∧ (s.device = .oracle → Config.freeCut (s.drawAt n) = false))) : s.moves (n + 1) := by
        intro k hk
        by_cases hkn : k < n
        · exact h k hkn
        · rwa [show k = n by omega]
      match hn : s.tape[n]? with
      | some (.moved b) => exact .inl (ext (.inl ⟨b, hn⟩))
      | some .cut => exact .inr ⟨n, by omega, .inl ⟨h, .inl hn⟩⟩
      | some .hang => exact .inr ⟨n, by omega, .inr ⟨h, hn⟩⟩
      | none =>
        by_cases hd : s.device = .oracle
        · cases hc : Config.freeCut (s.drawAt n) with
          | false => exact .inl (ext (.inr ⟨hn, fun _ => hc⟩))
          | true => exact .inr ⟨n, by omega, .inl ⟨h, .inr ⟨hn, hd, hc⟩⟩⟩
        · exact .inl (ext (.inr ⟨hn, fun h => absurd h hd⟩))
    · exact .inr ⟨k, by omega, h⟩

end Sys2Proof.Machine
end

