-- ==== Sys2Proof/Laws/State.lean ====
section
/-! SUPPORT. One lemma for each field after each shared operation on the state, true by unfolding, so that no later
proof unfolds a record update. -/
namespace Sys2Proof.Machine

/-! ## `accept` -/

@[simp] theorem accept_op (i : Instr) (s : State) : (accept i s).op = i.op := rfl
@[simp] theorem accept_addr (i : Instr) (s : State) : (accept i s).addr = i.addrOperand := rfl
@[simp] theorem accept_wdata (i : Instr) (s : State) : (accept i s).wdata = i.wdataOperand s.wdata := rfl
@[simp] theorem accept_tx (i : Instr) (s : State) : (accept i s).tx = s.tx.load 0 (frameBytes i) := rfl
@[simp] theorem accept_rx (i : Instr) (s : State) : (accept i s).rx = s.rx := rfl
@[simp] theorem accept_len (i : Instr) (s : State) : (accept i s).len = BitVec.ofNat 3 (frameLen i) := rfl
@[simp] theorem accept_idx (i : Instr) (s : State) : (accept i s).idx = 0 := rfl
@[simp] theorem accept_phase (i : Instr) (s : State) : (accept i s).phase = .xfer := rfl
@[simp] theorem accept_cs (i : Instr) (s : State) : (accept i s).cs = .asserted := rfl
@[simp] theorem accept_status (i : Instr) (s : State) : (accept i s).status = s.status := rfl
@[simp] theorem accept_rdata (i : Instr) (s : State) : (accept i s).rdata = s.rdata := rfl
@[simp] theorem accept_completed (i : Instr) (s : State) : (accept i s).completed = s.completed := rfl
@[simp] theorem accept_offers (i : Instr) (s : State) : (accept i s).offers = s.offers := rfl
@[simp] theorem accept_device (i : Instr) (s : State) : (accept i s).device = s.device := rfl
@[simp] theorem accept_mem (i : Instr) (s : State) : (accept i s).mem = s.mem := rfl
@[simp] theorem accept_tape (i : Instr) (s : State) : (accept i s).tape = s.tape := rfl
@[simp] theorem accept_draws (i : Instr) (s : State) : (accept i s).draws = s.draws := rfl
@[simp] theorem accept_wire (i : Instr) (s : State) : (accept i s).wire = s.wire ++ [.csLow] := rfl

/-! ## `moveByte` -/

@[simp] theorem moveByte_op (c b : Byte) (s : State) : (moveByte c b s).op = s.op := rfl
@[simp] theorem moveByte_addr (c b : Byte) (s : State) : (moveByte c b s).addr = s.addr := rfl
@[simp] theorem moveByte_wdata (c b : Byte) (s : State) : (moveByte c b s).wdata = s.wdata := rfl
@[simp] theorem moveByte_tx (c b : Byte) (s : State) : (moveByte c b s).tx = s.tx := rfl
@[simp] theorem moveByte_rx (c b : Byte) (s : State) : (moveByte c b s).rx = s.rx.set s.idx.toNat b := rfl
@[simp] theorem moveByte_len (c b : Byte) (s : State) : (moveByte c b s).len = s.len := rfl
@[simp] theorem moveByte_idx (c b : Byte) (s : State) : (moveByte c b s).idx = s.idx + 1 := rfl
@[simp] theorem moveByte_phase (c b : Byte) (s : State) : (moveByte c b s).phase = s.phase := rfl
@[simp] theorem moveByte_cs (c b : Byte) (s : State) : (moveByte c b s).cs = s.cs := rfl
@[simp] theorem moveByte_status (c b : Byte) (s : State) : (moveByte c b s).status = s.status := rfl
@[simp] theorem moveByte_rdata (c b : Byte) (s : State) : (moveByte c b s).rdata = s.rdata := rfl
@[simp] theorem moveByte_completed (c b : Byte) (s : State) : (moveByte c b s).completed = s.completed := rfl
@[simp] theorem moveByte_offers (c b : Byte) (s : State) : (moveByte c b s).offers = s.offers := rfl
@[simp] theorem moveByte_device (c b : Byte) (s : State) : (moveByte c b s).device = s.device := rfl
@[simp] theorem moveByte_mem (c b : Byte) (s : State) : (moveByte c b s).mem = s.mem := rfl
@[simp] theorem moveByte_tape (c b : Byte) (s : State) : (moveByte c b s).tape = s.tape := rfl
@[simp] theorem moveByte_draws (c b : Byte) (s : State) : (moveByte c b s).draws = s.draws := rfl
@[simp] theorem moveByte_wire (c b : Byte) (s : State) : (moveByte c b s).wire = s.wire ++ [.byte c] := rfl

/-! ## `releaseCs` -/

@[simp] theorem releaseCs_op (s : State) : (releaseCs s).op = s.op := rfl
@[simp] theorem releaseCs_addr (s : State) : (releaseCs s).addr = s.addr := rfl
@[simp] theorem releaseCs_wdata (s : State) : (releaseCs s).wdata = s.wdata := rfl
@[simp] theorem releaseCs_tx (s : State) : (releaseCs s).tx = s.tx := rfl
@[simp] theorem releaseCs_rx (s : State) : (releaseCs s).rx = s.rx := rfl
@[simp] theorem releaseCs_len (s : State) : (releaseCs s).len = s.len := rfl
@[simp] theorem releaseCs_idx (s : State) : (releaseCs s).idx = s.idx := rfl
@[simp] theorem releaseCs_phase (s : State) : (releaseCs s).phase = s.phase := rfl
@[simp] theorem releaseCs_cs (s : State) : (releaseCs s).cs = .released := rfl
@[simp] theorem releaseCs_status (s : State) : (releaseCs s).status = s.status := rfl
@[simp] theorem releaseCs_rdata (s : State) : (releaseCs s).rdata = s.rdata := rfl
@[simp] theorem releaseCs_completed (s : State) : (releaseCs s).completed = s.completed := rfl
@[simp] theorem releaseCs_offers (s : State) : (releaseCs s).offers = s.offers := rfl
@[simp] theorem releaseCs_device (s : State) : (releaseCs s).device = s.device := rfl
@[simp] theorem releaseCs_mem (s : State) : (releaseCs s).mem = s.mem := rfl
@[simp] theorem releaseCs_tape (s : State) : (releaseCs s).tape = s.tape := rfl
@[simp] theorem releaseCs_draws (s : State) : (releaseCs s).draws = s.draws := rfl
@[simp] theorem releaseCs_wire (s : State) : (releaseCs s).wire = s.wire ++ [.csHigh] := rfl

/-! ## `loadRdata` -/

@[simp] theorem loadRdata_op (s : State) : (loadRdata s).op = s.op := rfl
@[simp] theorem loadRdata_addr (s : State) : (loadRdata s).addr = s.addr := rfl
@[simp] theorem loadRdata_wdata (s : State) : (loadRdata s).wdata = s.wdata := rfl
@[simp] theorem loadRdata_tx (s : State) : (loadRdata s).tx = s.tx := rfl
@[simp] theorem loadRdata_rx (s : State) : (loadRdata s).rx = s.rx := rfl
@[simp] theorem loadRdata_len (s : State) : (loadRdata s).len = s.len := rfl
@[simp] theorem loadRdata_idx (s : State) : (loadRdata s).idx = s.idx := rfl
@[simp] theorem loadRdata_phase (s : State) : (loadRdata s).phase = s.phase := rfl
@[simp] theorem loadRdata_cs (s : State) : (loadRdata s).cs = s.cs := rfl
@[simp] theorem loadRdata_status (s : State) : (loadRdata s).status = s.status := rfl
@[simp] theorem loadRdata_rdata (s : State) : (loadRdata s).rdata = unpack32 s.rx.b2 s.rx.b3 s.rx.b4 s.rx.b5 := rfl
@[simp] theorem loadRdata_completed (s : State) : (loadRdata s).completed = s.completed := rfl
@[simp] theorem loadRdata_offers (s : State) : (loadRdata s).offers = s.offers := rfl
@[simp] theorem loadRdata_device (s : State) : (loadRdata s).device = s.device := rfl
@[simp] theorem loadRdata_mem (s : State) : (loadRdata s).mem = s.mem := rfl
@[simp] theorem loadRdata_tape (s : State) : (loadRdata s).tape = s.tape := rfl
@[simp] theorem loadRdata_draws (s : State) : (loadRdata s).draws = s.draws := rfl
@[simp] theorem loadRdata_wire (s : State) : (loadRdata s).wire = s.wire := rfl

/-! ## `sleepMs` -/

@[simp] theorem sleepMs_op (s : State) : (sleepMs s).op = s.op := rfl
@[simp] theorem sleepMs_addr (s : State) : (sleepMs s).addr = s.addr := rfl
@[simp] theorem sleepMs_wdata (s : State) : (sleepMs s).wdata = s.wdata := rfl
@[simp] theorem sleepMs_tx (s : State) : (sleepMs s).tx = s.tx := rfl
@[simp] theorem sleepMs_rx (s : State) : (sleepMs s).rx = s.rx := rfl
@[simp] theorem sleepMs_len (s : State) : (sleepMs s).len = s.len := rfl
@[simp] theorem sleepMs_idx (s : State) : (sleepMs s).idx = s.idx := rfl
@[simp] theorem sleepMs_phase (s : State) : (sleepMs s).phase = s.phase := rfl
@[simp] theorem sleepMs_cs (s : State) : (sleepMs s).cs = s.cs := rfl
@[simp] theorem sleepMs_status (s : State) : (sleepMs s).status = s.status := rfl
@[simp] theorem sleepMs_rdata (s : State) : (sleepMs s).rdata = s.rdata := rfl
@[simp] theorem sleepMs_completed (s : State) : (sleepMs s).completed = s.completed := rfl
@[simp] theorem sleepMs_offers (s : State) : (sleepMs s).offers = s.offers := rfl
@[simp] theorem sleepMs_device (s : State) : (sleepMs s).device = s.device := rfl
@[simp] theorem sleepMs_mem (s : State) : (sleepMs s).mem = s.mem := rfl
@[simp] theorem sleepMs_tape (s : State) : (sleepMs s).tape = s.tape := rfl
@[simp] theorem sleepMs_draws (s : State) : (sleepMs s).draws = s.draws + 1 := rfl
@[simp] theorem sleepMs_wire (s : State) : (sleepMs s).wire = s.wire ++ [.slept (Config.tResetSleepActual s.draws)] := rfl

/-! ## `completeOk` -/

@[simp] theorem completeOk_op (s : State) : (completeOk s).op = s.op := rfl
@[simp] theorem completeOk_addr (s : State) : (completeOk s).addr = s.addr := rfl
@[simp] theorem completeOk_wdata (s : State) : (completeOk s).wdata = s.wdata := rfl
@[simp] theorem completeOk_tx (s : State) : (completeOk s).tx = s.tx := rfl
@[simp] theorem completeOk_rx (s : State) : (completeOk s).rx = s.rx := rfl
@[simp] theorem completeOk_len (s : State) : (completeOk s).len = s.len := rfl
@[simp] theorem completeOk_idx (s : State) : (completeOk s).idx = s.idx := rfl
@[simp] theorem completeOk_phase (s : State) : (completeOk s).phase = .idle := rfl
@[simp] theorem completeOk_cs (s : State) : (completeOk s).cs = s.cs := rfl
@[simp] theorem completeOk_status (s : State) : (completeOk s).status = .ok := rfl
@[simp] theorem completeOk_rdata (s : State) : (completeOk s).rdata = s.rdata := rfl
@[simp] theorem completeOk_completed (s : State) : (completeOk s).completed = some s.op := rfl
@[simp] theorem completeOk_offers (s : State) : (completeOk s).offers = s.offers := rfl
@[simp] theorem completeOk_device (s : State) : (completeOk s).device = s.device := rfl
@[simp] theorem completeOk_mem (s : State) : (completeOk s).mem = s.mem := rfl
@[simp] theorem completeOk_tape (s : State) : (completeOk s).tape = s.tape := rfl
@[simp] theorem completeOk_draws (s : State) : (completeOk s).draws = s.draws := rfl
@[simp] theorem completeOk_wire (s : State) : (completeOk s).wire = s.wire := rfl

/-! ## `raiseBusIoErr` -/

@[simp] theorem raiseBusIoErr_op (s : State) : (raiseBusIoErr s).op = s.op := rfl
@[simp] theorem raiseBusIoErr_addr (s : State) : (raiseBusIoErr s).addr = s.addr := rfl
@[simp] theorem raiseBusIoErr_wdata (s : State) : (raiseBusIoErr s).wdata = s.wdata := rfl
@[simp] theorem raiseBusIoErr_tx (s : State) : (raiseBusIoErr s).tx = s.tx := rfl
@[simp] theorem raiseBusIoErr_rx (s : State) : (raiseBusIoErr s).rx = s.rx := rfl
@[simp] theorem raiseBusIoErr_len (s : State) : (raiseBusIoErr s).len = s.len := rfl
@[simp] theorem raiseBusIoErr_idx (s : State) : (raiseBusIoErr s).idx = s.idx := rfl
@[simp] theorem raiseBusIoErr_phase (s : State) : (raiseBusIoErr s).phase = .idle := rfl
@[simp] theorem raiseBusIoErr_cs (s : State) : (raiseBusIoErr s).cs = .released := rfl
@[simp] theorem raiseBusIoErr_status (s : State) : (raiseBusIoErr s).status = .busIoErr := rfl
@[simp] theorem raiseBusIoErr_rdata (s : State) : (raiseBusIoErr s).rdata = s.rdata := rfl
@[simp] theorem raiseBusIoErr_completed (s : State) : (raiseBusIoErr s).completed = some s.op := rfl
@[simp] theorem raiseBusIoErr_offers (s : State) : (raiseBusIoErr s).offers = s.offers := rfl
@[simp] theorem raiseBusIoErr_device (s : State) : (raiseBusIoErr s).device = s.device.afterCut := rfl
@[simp] theorem raiseBusIoErr_mem (s : State) : (raiseBusIoErr s).mem = s.mem := rfl
@[simp] theorem raiseBusIoErr_tape (s : State) : (raiseBusIoErr s).tape = s.tape := rfl
@[simp] theorem raiseBusIoErr_draws (s : State) : (raiseBusIoErr s).draws = s.draws := rfl
@[simp] theorem raiseBusIoErr_wire (s : State) : (raiseBusIoErr s).wire = s.wire ++ [.csHigh] := rfl

/-! ## `afterExchange` -/

@[simp] theorem afterExchange_op (s : State) (x : Exchange) : (afterExchange s x).op = s.op := rfl
@[simp] theorem afterExchange_addr (s : State) (x : Exchange) : (afterExchange s x).addr = s.addr := rfl
@[simp] theorem afterExchange_wdata (s : State) (x : Exchange) : (afterExchange s x).wdata = s.wdata := rfl
@[simp] theorem afterExchange_tx (s : State) (x : Exchange) : (afterExchange s x).tx = s.tx := rfl
@[simp] theorem afterExchange_rx (s : State) (x : Exchange) : (afterExchange s x).rx = s.rx.load 0 x.rx := rfl
@[simp] theorem afterExchange_len (s : State) (x : Exchange) : (afterExchange s x).len = s.len := rfl
@[simp] theorem afterExchange_idx (s : State) (x : Exchange) : (afterExchange s x).idx = BitVec.ofNat 3 x.rx.length := rfl
@[simp] theorem afterExchange_phase (s : State) (x : Exchange) : (afterExchange s x).phase = s.phase := rfl
@[simp] theorem afterExchange_cs (s : State) (x : Exchange) : (afterExchange s x).cs = s.cs := rfl
@[simp] theorem afterExchange_status (s : State) (x : Exchange) : (afterExchange s x).status = s.status := rfl
@[simp] theorem afterExchange_rdata (s : State) (x : Exchange) : (afterExchange s x).rdata = s.rdata := rfl
@[simp] theorem afterExchange_completed (s : State) (x : Exchange) : (afterExchange s x).completed = s.completed := rfl
@[simp] theorem afterExchange_offers (s : State) (x : Exchange) : (afterExchange s x).offers = s.offers := rfl
@[simp] theorem afterExchange_device (s : State) (x : Exchange) : (afterExchange s x).device = s.device := rfl
@[simp] theorem afterExchange_mem (s : State) (x : Exchange) : (afterExchange s x).mem = s.mem := rfl
@[simp] theorem afterExchange_tape (s : State) (x : Exchange) : (afterExchange s x).tape = x.tape := rfl
@[simp] theorem afterExchange_draws (s : State) (x : Exchange) : (afterExchange s x).draws = x.draws := rfl
@[simp] theorem afterExchange_wire (s : State) (x : Exchange) : (afterExchange s x).wire = s.wire ++ (s.frame.take x.rx.length).map .byte := rfl

/-! ## `deviceCommit`: only the device and its contents can change -/

@[simp] theorem deviceCommit_op (s : State) : (deviceCommit s).op = s.op := rfl
@[simp] theorem deviceCommit_addr (s : State) : (deviceCommit s).addr = s.addr := rfl
@[simp] theorem deviceCommit_wdata (s : State) : (deviceCommit s).wdata = s.wdata := rfl
@[simp] theorem deviceCommit_tx (s : State) : (deviceCommit s).tx = s.tx := rfl
@[simp] theorem deviceCommit_rx (s : State) : (deviceCommit s).rx = s.rx := rfl
@[simp] theorem deviceCommit_len (s : State) : (deviceCommit s).len = s.len := rfl
@[simp] theorem deviceCommit_idx (s : State) : (deviceCommit s).idx = s.idx := rfl
@[simp] theorem deviceCommit_phase (s : State) : (deviceCommit s).phase = s.phase := rfl
@[simp] theorem deviceCommit_cs (s : State) : (deviceCommit s).cs = s.cs := rfl
@[simp] theorem deviceCommit_status (s : State) : (deviceCommit s).status = s.status := rfl
@[simp] theorem deviceCommit_rdata (s : State) : (deviceCommit s).rdata = s.rdata := rfl
@[simp] theorem deviceCommit_completed (s : State) : (deviceCommit s).completed = s.completed := rfl
@[simp] theorem deviceCommit_offers (s : State) : (deviceCommit s).offers = s.offers := rfl
@[simp] theorem deviceCommit_device (s : State) : (deviceCommit s).device = s.device.afterFrame s.frame := rfl
@[simp] theorem deviceCommit_mem (s : State) : (deviceCommit s).mem = s.device.contentsAfter s.mem s.frame := rfl
@[simp] theorem deviceCommit_tape (s : State) : (deviceCommit s).tape = s.tape := rfl
@[simp] theorem deviceCommit_draws (s : State) : (deviceCommit s).draws = s.draws := rfl
@[simp] theorem deviceCommit_wire (s : State) : (deviceCommit s).wire = s.wire := rfl

/-! ## The frame in flight depends on `TX` and `LEN` alone -/

@[simp] theorem releaseCs_frame (s : State) : (releaseCs s).frame = s.frame := rfl
@[simp] theorem deviceCommit_frame (s : State) : (deviceCommit s).frame = s.frame := rfl
@[simp] theorem moveByte_frame (c b : Byte) (s : State) : (moveByte c b s).frame = s.frame := rfl
@[simp] theorem afterExchange_frame (s : State) (x : Exchange) : (afterExchange s x).frame = s.frame := rfl

/-- After `accept` the frame in flight is the command's frame (R28, R86). -/
@[simp] theorem accept_frame (i : Instr) (s : State) : (accept i s).frame = frameBytes i := by
  cases i <;> rfl

/-- After `accept` the operand registers hold the command (R28). -/
@[simp] theorem accept_latched (i : Instr) (s : State) : (accept i s).latched = i := by
  cases i <;> rfl

/-- `LEN` holds the length of the command's frame: three bits are enough (R21, R28). -/
@[simp] theorem frameLen_mod (i : Instr) : frameLen i % 8 = frameLen i := by
  cases i <;> rfl

/-- The bytes of a command's frame are as many as `frameLen` says (R86). -/
@[simp] theorem frameBytes_length (i : Instr) : (frameBytes i).length = frameLen i := by
  cases i <;> rfl

end Sys2Proof.Machine
end

