-- ==== Sys2Proof/Laws/Exchange.lean ====
section
/-! SUPPORT. What an exchange can do (10_state.md rules R33 and R34), said once: a whole exchange captures as many
bytes as it sends, a short one fewer, and neither depends on anything but the bus environment and the frame. -/
namespace Sys2Proof.Machine

/-- Draws never stop the machine, and capture all `n` bytes unless they cut the exchange. -/
theorem drawnExchange_spec (n d : Nat) :
    (drawnExchange n d).fault = none ∧ (drawnExchange n d).tape = [] ∧
    ((drawnExchange n d).short = false → (drawnExchange n d).rx.length = n) ∧
    ((drawnExchange n d).short = true → (drawnExchange n d).rx.length < n) := by
  induction n generalizing d with
  | zero => simp [drawnExchange]
  | succ n ih =>
    obtain ⟨-, -, h0, h1⟩ := ih (d + 1)
    cases hc : Config.freeCut d <;> simp_all [drawnExchange]

/-- An exchange that does not stop the machine captures all `n` bytes, or fewer and is short. -/
theorem exchangeFrom_length (d : Device) (m : Memory) (f : List Byte) (n k : Nat) (tape : List BusEvent)
    (draws : Nat) (hf : (exchangeFrom d m f n k tape draws).fault = none) :
    ((exchangeFrom d m f n k tape draws).short = false → (exchangeFrom d m f n k tape draws).rx.length = n) ∧
    ((exchangeFrom d m f n k tape draws).short = true → (exchangeFrom d m f n k tape draws).rx.length < n) := by
  induction n generalizing k tape draws with
  | zero => simp [exchangeFrom]
  | succ n ih =>
    match tape with
    | .cut :: tape => simp [exchangeFrom]
    | .hang :: tape => simp [exchangeFrom] at hf
    | .moved b :: tape =>
      simp only [exchangeFrom] at hf ⊢
      split at hf
      · simp at hf
      · next c hc => simpa [hc, Exchange.cons] using ih (k + 1) tape draws hf
    | [] =>
      cases d with
      | oracle => exact (drawnExchange_spec (n + 1) draws).2.2
      | reference =>
        simp only [exchangeFrom] at hf ⊢
        split at hf
        · simp at hf
        · next c hc => simpa [hc, Exchange.cons] using ih (k + 1) [] (draws + 1) hf
      | unknown =>
        simp only [exchangeFrom] at hf ⊢
        split at hf
        · simp at hf
        · next c hc => simpa [hc, Exchange.cons] using ih (k + 1) [] (draws + 1) hf

/-- Past the end of the tape the real device's exchange is draws alone. -/
theorem exchangeFrom_oracle_nil (m : Memory) (f : List Byte) (n k d : Nat) :
    exchangeFrom .oracle m f n k [] d = drawnExchange n d := by
  cases n <;> rfl

/-- A drawn byte that is not cut. -/
theorem exchangeFrom_drawn (m : Memory) (f : List Byte) (n k d : Nat) (h : Config.freeCut d = false) :
    exchangeFrom .oracle m f (n + 1) k [] d =
      (exchangeFrom .oracle m f n (k + 1) [] (d + 1)).cons (Config.freeByte d) := by
  rw [exchangeFrom_oracle_nil, exchangeFrom_oracle_nil]
  have hs := drawnExchange_spec n (d + 1)
  simp [drawnExchange, h, Exchange.cons, hs.1, hs.2.1]

/-- A drawn cut. -/
theorem exchangeFrom_drawn_cut (m : Memory) (f : List Byte) (n k d : Nat) (h : Config.freeCut d = true) :
    exchangeFrom .oracle m f (n + 1) k [] d = ⟨none, true, [], [], d + 1⟩ := by
  rw [exchangeFrom_oracle_nil]
  simp [drawnExchange, h]

/-- A byte past the end of the tape with the reference device. -/
theorem exchangeFrom_filler (d : Device) (m : Memory) (f : List Byte) (n k dr : Nat) (c : Byte) (hd : d ≠ .oracle)
    (h : deviceByte d m f k (Config.freeByte dr) = .ok c) :
    exchangeFrom d m f (n + 1) k [] dr = (exchangeFrom d m f n (k + 1) [] (dr + 1)).cons c := by
  cases d with
  | oracle => exact absurd rfl hd
  | reference => simp only [exchangeFrom, h]
  | unknown => simp only [exchangeFrom, h]

/-- A byte the tape decides. -/
theorem exchangeFrom_moved (d : Device) (m : Memory) (f : List Byte) (n k : Nat) (b c : Byte)
    (tape : List BusEvent) (dr : Nat) (h : deviceByte d m f k b = .ok c) :
    exchangeFrom d m f (n + 1) k (.moved b :: tape) dr = (exchangeFrom d m f n (k + 1) tape dr).cons c := by
  simp only [exchangeFrom, h]

/-- The captured bytes `cs` before the exchange `x`. -/
def Exchange.prepend (cs : List Byte) (x : Exchange) : Exchange := { x with rx := cs ++ x.rx }

/-- THE EXCHANGE, byte by byte: while the environment exchanges the first `j` bytes of `j + r` and the device answers
them with `ans`, the exchange is those bytes and then the exchange of the remaining `r`. -/
theorem exchangeFrom_prefix (d : Device) (m : Memory) (f : List Byte) (j r k : Nat) (tape : List BusEvent)
    (dr : Nat) (ans : Nat → Byte)
    (hm : ∀ i < j, (∃ b, tape[i]? = some (.moved b)) ∨
      (tape[i]? = none ∧ (d = .oracle → Config.freeCut (dr + (i - tape.length)) = false)))
    (ha : ∀ i < j, deviceByte d m f (k + i)
      (match tape[i]? with
        | some (.moved b) => b
        | _ => Config.freeByte (dr + (i - tape.length))) = .ok (ans i)) :
    exchangeFrom d m f (j + r) k tape dr =
      (exchangeFrom d m f r (k + j) (tape.drop j) (dr + (j - tape.length))).prepend ((List.range j).map ans) := by
  induction j generalizing k tape dr ans with
  | zero => simp [Exchange.prepend]
  | succ j ih =>
    have h0 := hm 0 (by omega)
    have a0 := ha 0 (by omega)
    have e : j + 1 + r = (j + r) + 1 := by omega
    have fin : ∀ (x : Exchange), (x.prepend ((List.range j).map fun i => ans (i + 1))).cons (ans 0) =
        x.prepend ((List.range (j + 1)).map ans) := by
      intro x
      simp [Exchange.prepend, Exchange.cons, List.range_succ_eq_map, Function.comp_def]
    match tape with
    | .cut :: tape => simp at h0
    | .hang :: tape => simp at h0
    | .moved b :: tape =>
      rw [e, exchangeFrom_moved d m f _ k b (ans 0) tape dr (by simpa using a0),
        ih (k + 1) tape dr (fun i => ans (i + 1)) (fun i hi => by simpa using hm (i + 1) (by omega))
          (fun i hi => by simpa [Nat.add_assoc, Nat.add_comm, Nat.add_left_comm] using ha (i + 1) (by omega)), fin]
      simp [show k + 1 + j = k + (j + 1) by omega]
    | [] =>
      have step : exchangeFrom d m f (j + r + 1) k [] dr =
          (exchangeFrom d m f (j + r) (k + 1) [] (dr + 1)).cons (ans 0) := by
        by_cases hd : d = .oracle
        · subst hd
          have hb : Config.freeByte dr = ans 0 := by simpa [deviceByte] using a0
          rw [exchangeFrom_drawn m f _ k dr (by simpa using h0), hb]
        · exact exchangeFrom_filler d m f _ k dr (ans 0) hd (by simpa using a0)
      rw [e, step,
        ih (k + 1) [] (dr + 1) (fun i => ans (i + 1))
          (fun i hi => by
            simpa [Nat.add_assoc, Nat.add_comm, Nat.add_left_comm] using hm (i + 1) (by omega))
          (fun i hi => by
            simpa [Nat.add_assoc, Nat.add_comm, Nat.add_left_comm] using ha (i + 1) (by omega)), fin]
      simp [show k + 1 + j = k + (j + 1) by omega, show dr + 1 + j = dr + (j + 1) by omega]

/-- With the real device an exchange stops the machine only where the bus primitive never returns. -/
theorem exchangeFrom_oracle_fault (m : Memory) (f : List Byte) (n k : Nat) (tape : List BusEvent) (draws : Nat)
    (e : Fault) (h : (exchangeFrom .oracle m f n k tape draws).fault = some e) : e = .busHung := by
  induction n generalizing k tape draws with
  | zero => simp [exchangeFrom] at h
  | succ n ih =>
    match tape with
    | .cut :: tape => simp [exchangeFrom] at h
    | .hang :: tape => simpa [exchangeFrom] using h.symm
    | .moved b :: tape => exact ih (k + 1) tape draws h
    | [] => simp [exchangeFrom, (drawnExchange_spec (n + 1) draws).1] at h

end Sys2Proof.Machine
end

