-- ==== Sys2Proof/Laws/Memory.lean ====
section
/-! SUPPORT. The laws of the device's memory: a read after a write, and that every operation keeps the canonical
form. -/
namespace Sys2Proof.Machine

/-- Reading after setting one byte: the byte that was set, and every other address as before. -/
theorem Memory.get_put (m : Memory) (a : Nat) (b : Byte) (x : Nat) :
    (m.put a b).get x = if a = x then some b else m.get x := by
  induction m with
  | nil => rfl
  | cons c m ih =>
    obtain ⟨k, c⟩ := c
    simp only [Memory.put]
    split
    · simp only [Memory.get]
    · split
      · next h => subst h; simp only [Memory.get]; split <;> rfl
      · simp only [Memory.get, ih]
        split
        · next h => rw [if_neg (by omega)]
        · rfl

theorem Memory.put_wfFrom (m : Memory) (a : Nat) (b : Byte) (lo : Nat) (hlo : lo ≤ a) (ha : a < 4096)
    (h : Memory.wfFrom lo m = true) : Memory.wfFrom lo (m.put a b) = true := by
  induction m generalizing lo with
  | nil => simp [Memory.put, Memory.wfFrom, hlo, ha]
  | cons c m ih =>
    obtain ⟨k, c⟩ := c
    simp only [Memory.wfFrom, Bool.and_eq_true, decide_eq_true_eq] at h
    obtain ⟨⟨hk, hk'⟩, hm⟩ := h
    simp only [Memory.put]
    split
    · simp [Memory.wfFrom, hlo, ha, hm, hk']; omega
    · split
      · next h => subst h; simp [Memory.wfFrom, hlo, ha, hm]
      · simp only [Memory.wfFrom, Bool.and_eq_true, decide_eq_true_eq]
        exact ⟨⟨hk, hk'⟩, ih (k + 1) (by omega) hm⟩

/-- Setting a byte of the 12-bit address space keeps the canonical form. -/
theorem Memory.put_wf (m : Memory) (a : Addr) (b : Byte) (h : m.wf = true) : (m.put a.toNat b).wf = true :=
  Memory.put_wfFrom m a.toNat b 0 (Nat.zero_le _) a.isLt h

/-- `MemWrite(a, 4, v)` keeps the canonical form (R151). -/
theorem Memory.write32_wf (m : Memory) (a : Addr) (v : Word) (h : m.wf = true) : (m.write32 a v).wf = true := by
  unfold Memory.write32
  exact Memory.put_wf _ _ _ (Memory.put_wf _ _ _ (Memory.put_wf _ _ _ (Memory.put_wf _ _ _ h)))

/-- Loading a table of words keeps the canonical form. -/
theorem Memory.foldl_write32_wf (rows : List (Addr × Word)) (m : Memory) (h : m.wf = true) :
    (rows.foldl (fun m row => m.write32 row.1 row.2) m).wf = true := by
  induction rows generalizing m with
  | nil => exact h
  | cons r rows ih => exact ih _ (Memory.write32_wf m r.1 r.2 h)

/-- The reset contents are in canonical form (R153). -/
theorem resetMemory_wf : resetMemory.wf = true := by
  unfold resetMemory
  exact Memory.foldl_write32_wf resetTable [] rfl

/-- Reading one byte after `MemWrite(a, 4, v)` (R151). -/
theorem Memory.get_write32 (m : Memory) (a : Addr) (v : Word) (n : Nat) : (m.write32 a v).get n =
    if (byteAddr a 3).toNat = n then some (wordByte v 3)
    else if (byteAddr a 2).toNat = n then some (wordByte v 2)
    else if (byteAddr a 1).toNat = n then some (wordByte v 1)
    else if (byteAddr a 0).toNat = n then some (wordByte v 0)
    else m.get n := by
  simp only [Memory.write32, Memory.get_put]

/-- The memory after block reset is in canonical form. -/
theorem reset_mem_wf : State.reset.mem.wf = true := rfl

/-! ## What the device does with a whole frame (R151 to R153) -/

/-- A device that receives a READ frame keeps its contents. -/
theorem Device.contentsAfter_read (d : Device) (m : Memory) (f : List Byte) (a : Addr)
    (hf : decodeFrame f = .ok (.read a)) : d.contentsAfter m f = m := by
  cases d <;> simp only [Device.contentsAfter, hf]

/-- The reference device stores a WRITE (R151). -/
theorem Device.contentsAfter_write (m : Memory) (f : List Byte) (a : Addr) (v : Word)
    (hf : decodeFrame f = .ok (.write a v)) : Device.reference.contentsAfter m f = m.write32 a v := by
  simp only [Device.contentsAfter, hf]

/-- A completed RESET leaves the documented reset words and nothing else (R153). -/
theorem Device.contentsAfter_reset (d : Device) (m : Memory) (f : List Byte) (hd : d ≠ .oracle)
    (hf : decodeFrame f = .ok .reset) : d.contentsAfter m f = resetMemory := by
  cases d with
  | oracle => exact absurd rfl hd
  | reference => simp only [Device.contentsAfter, hf]
  | unknown => simp only [Device.contentsAfter, hf]

/-- What a device does with a whole frame: nothing, the store of a WRITE, or the restoring of the reset words. -/
theorem Device.contentsAfter_cases (d : Device) (m : Memory) (f : List Byte) :
    d.contentsAfter m f = m ∨
    (d = .reference ∧ ∃ a v, decodeFrame f = .ok (.write a v) ∧ d.contentsAfter m f = m.write32 a v) ∨
    (d ≠ .oracle ∧ decodeFrame f = .ok .reset ∧ d.contentsAfter m f = resetMemory) := by
  cases d with
  | oracle => exact .inl rfl
  | reference =>
    cases hf : decodeFrame f with
    | refused r => exact .inl (by simp only [Device.contentsAfter, hf])
    | ok i =>
      cases i with
      | read a => exact .inl (contentsAfter_read _ m f a hf)
      | write a v => exact .inr (.inl ⟨rfl, a, v, rfl, contentsAfter_write m f a v hf⟩)
      | reset => exact .inr (.inr ⟨by simp, rfl, contentsAfter_reset _ m f (by simp) hf⟩)
  | unknown =>
    cases hf : decodeFrame f with
    | refused r => exact .inl (by simp only [Device.contentsAfter, hf])
    | ok i =>
      cases i with
      | read a => exact .inl (contentsAfter_read _ m f a hf)
      | write a v => exact .inl (by simp only [Device.contentsAfter, hf])
      | reset => exact .inr (.inr ⟨by simp, rfl, contentsAfter_reset _ m f (by simp) hf⟩)

/-- What a device does with a whole frame keeps the canonical form. -/
theorem Device.contentsAfter_wf (d : Device) (m : Memory) (f : List Byte) (h : m.wf = true) :
    (d.contentsAfter m f).wf = true := by
  rcases contentsAfter_cases d m f with h' | h' | h'
  · rw [h', h]
  · obtain ⟨-, a, v, -, h'⟩ := h'
    rw [h', Memory.write32_wf _ _ _ h]
  · rw [h'.2.2, resetMemory_wf]

end Sys2Proof.Machine
end

