-- ==== Sys2Proof/Laws/Micro.lean ====
section
/-! SUPPORT. The small steps, one lemma for each enabled step (10_state.md rules R28 to R32), and the buffers they
index. -/
namespace Sys2Proof.Machine

/-- Reading a buffer after writing one of its six bytes. -/
theorem Buf.byte?_set (b : Buf) (j k : Nat) (x : Byte) (hj : j < 6) :
    (b.set j x).byte? k = if k = j then some x else b.byte? k := by
  interval_cases j <;> (match k with | 0 | 1 | 2 | 3 | 4 | 5 | (k + 6) => simp [Buf.set, Buf.byte?])

/-- A buffer has a byte at each index below six. -/
theorem Buf.byte?_some (b : Buf) (k : Nat) (h : k < 6) : ∃ x, b.byte? k = some x := by
  interval_cases k <;> exact ⟨_, rfl⟩

/-- The frame in flight, byte by byte, is the outgoing buffer. -/
theorem State.frame_getElem? (s : State) (k : Nat) (h6 : s.len.toNat ≤ 6) (h : k < s.len.toNat) (c : Byte)
    (hc : s.tx.byte? k = some c) : s.frame[k]? = some c := by
  have : k < 6 := by omega
  simp only [State.frame, List.getElem?_take, h, if_true, Buf.toList]
  interval_cases k <;> simpa [Buf.byte?] using hc

theorem microStep_sleep (s : State) (h : s.phase = .sleep) : microStep s = .next (microWake s) := by
  simp only [microStep, h]

theorem microStep_finish (s : State) (h : s.phase = .xfer) (hi : s.idx = s.len) :
    microStep s = .next (microFinish s) := by
  have : ¬ s.idx < s.len := by rw [hi]; exact BitVec.lt_irrefl _
  simp only [microStep, h, microXfer]
  rw [if_neg this, if_pos hi]

theorem microStep_byte (s : State) (h : s.phase = .xfer) (hi : s.idx < s.len) : microStep s = microByte s := by
  simp only [microStep, h, microXfer]
  rw [if_pos hi]

/-- A block that is idle takes no further small step of a transaction. -/
theorem settle_idle (n : Nat) (s : State) (h : s.phase = .idle) : settle n s = .next s := by
  cases n with
  | zero => rfl
  | succ n => simp only [settle, h]

end Sys2Proof.Machine
end

