-- ==== Sys2Proof/Laws/PerInstr.lean ====
section
/-! SUPPORT. The family `EncodedLength`: the frame of a command has the length of its format (30_encoding.md rules
R81, R86 and R90). -/
namespace Sys2Proof.Laws.EncodedLength

/-- The encoder's frame has the command's length, and it is 2 for RESET and 6 for READ and WRITE. -/
def Statement (i : Instr) : Prop :=
  (encode i).length = frameLen i ∧ (frameLen i = 2 ↔ i = .reset) ∧ (frameLen i = 6 ↔ i ≠ .reset)

theorem reset : Statement .reset := by simp [Statement, encode, frameBytes, frameLen, hdr]

theorem write (a : Addr) (v : Word) : Statement (.write a v) := by
  simp [Statement, encode, frameBytes, frameLen, hdr, pack32]

theorem read (a : Addr) : Statement (.read a) := by simp [Statement, encode, frameBytes, frameLen, hdr]

end Sys2Proof.Laws.EncodedLength
end

