-- ==== Sys2Proof/Laws/Transact.lean ====
section
/-! SUPPORT. What one transaction can do, said once (40_reset_command.md rule R110, 41_read_command.md rule R120,
42_write_command.md rule R130): a later proof cites these and does not unfold `transact`. -/
namespace Sys2Proof.Machine

/-- A command offered to a busy block is not taken (R28, D18). -/
theorem transact_busy (i : Instr) (finish : State → State) (s : State) (h : s.phase ≠ .idle) :
    transact i finish s = .next s := if_neg h

/-- The three ends of a transaction of an idle block: the machine stops, the exchange was short, or it was whole. -/
theorem transact_idle (i : Instr) (finish : State → State) (s : State) (h : s.phase = .idle) :
    (∃ f, (exchange (accept i s)).fault = some f ∧ transact i finish s = .fault f) ∨
    ((exchange (accept i s)).fault = none ∧ (exchange (accept i s)).short = true ∧
      transact i finish s = .next (raiseBusIoErr (afterExchange (accept i s) (exchange (accept i s))))) ∨
    ((exchange (accept i s)).fault = none ∧ (exchange (accept i s)).short = false ∧
      transact i finish s =
        .next (finish (deviceCommit (releaseCs (afterExchange (accept i s) (exchange (accept i s))))))) := by
  unfold transact
  rw [if_pos h]
  cases hf : (exchange (accept i s)).fault with
  | some f => exact .inl ⟨f, rfl, by simp [hf]⟩
  | none =>
    cases hs : (exchange (accept i s)).short with
    | true => exact .inr (.inl ⟨rfl, rfl, by simp [hf, hs]⟩)
    | false => exact .inr (.inr ⟨rfl, rfl, by simp [hf, hs]⟩)

end Sys2Proof.Machine
end

