-- ==== Sys2Proof/Laws/Wire.lean ====
section
/-! SUPPORT. How the readings of the bus log treat a longer log (10_state.md rules R34 and R35). -/
namespace Sys2Proof.Machine

theorem wireLevel_append (c : ChipSelect) (w v : List WireEvent) :
    wireLevel c (w ++ v) = (wireLevel c w).bind fun d => wireLevel d v := by
  induction w generalizing c with
  | nil => cases c <;> simp [wireLevel]
  | cons e w ih => cases c <;> cases e <;> simp [wireLevel, ih]

theorem openFrame_append (acc : List Byte) (w v : List WireEvent) :
    openFrame acc (w ++ v) = openFrame (openFrame acc w) v := by
  induction w generalizing acc with
  | nil => simp [openFrame]
  | cons e w ih => cases e <;> simp [openFrame, ih]

/-- A new assertion of chip-select begins a new frame. -/
theorem framesFrom_append_csLow (acc : List Byte) (w v : List WireEvent) :
    framesFrom acc (w ++ .csLow :: v) = framesFrom acc w ++ framesFrom [] v := by
  induction w generalizing acc with
  | nil => simp [framesFrom]
  | cons e w ih => cases e <;> simp [framesFrom, ih]

theorem framesFrom_bytes (acc bs : List Byte) (w : List WireEvent) :
    framesFrom acc (bs.map .byte ++ w) = framesFrom (acc ++ bs) w := by
  induction bs generalizing acc with
  | nil => simp
  | cons b bs ih => simp [framesFrom, ih]

end Sys2Proof.Machine
end

