-- ==== Sys2Proof/Tests/Slice0.lean ====
section
/-! SUPPORT. Tests of the model on values taken from spec/95_test_vectors.md (the vector is named beside each), and for
each statement with hypotheses a concrete state that meets them. A test on fixed values is a check of this model, not
a claim. -/
namespace Sys2Proof.Tests
open Sys2Proof.Machine

/-! ## Small states -/

/-- The reset state with the real device and these choices of the bus environment. -/
def onTape (tape : List BusEvent) : State := { State.reset with tape := tape }

/-- The reset state with the reference device holding `m`, its bus environment untouched. -/
def onRef (m : Memory) : State := { State.reset with device := .reference, mem := m }

/-- A block in the middle of `WRITE 123, 89ABCDEF` with `k` bytes exchanged, as vector V-D8 shows it. -/
def midWrite (k : Nat) (tape : List BusEvent) : State :=
  { State.reset with
    op := .write, addr := 0x123, wdata := 0x89ABCDEF, tx := ⟨0x21, 0x23, 0xEF, 0xCD, 0xAB, 0x89⟩, len := 6
    idx := BitVec.ofNat 3 k, cs := .asserted, phase := .xfer, tape := tape
    wire := .csLow :: (([0x21, 0x23, 0xEF, 0xCD, 0xAB, 0x89] : List Byte).take k).map .byte }

/-- A block that waits out a RESET. -/
def asleep : State :=
  { State.reset with len := 2, idx := 2, phase := .sleep, wire := [.csLow, .byte 0, .byte 0, .csHigh] }

/-- Six captured bytes. -/
def six (b0 b1 b2 b3 b4 b5 : Byte) : List BusEvent :=
  [.moved b0, .moved b1, .moved b2, .moved b3, .moved b4, .moved b5]

/-- The next state of an outcome. -/
def nextOf (o : Host.Outcome State Fault Refusal) : Option State :=
  match o with
  | .next t => some t
  | .fault _ => none
  | .refused _ => none

/-- The fault of an outcome. -/
def faultOf (o : Host.Outcome State Fault Refusal) : Option Fault :=
  match o with
  | .fault f => some f
  | .next _ => none
  | .refused _ => none

/-- The frame an exchange has put on the wire. -/
def frames (o : Host.Outcome State Fault Refusal) : Option (List (List Byte)) :=
  (nextOf o).map fun t => wireFrames t.wire

/-! ## WellFormed: one ill-formed frame for each check, refused, beside the nearest accepted one -/

theorem test_wf_reset : FrameShape.wf ⟨0x0, 0x000, 2⟩ = true := by decide
theorem test_wf_reset_address : FrameShape.wf ⟨0x0, 0x001, 2⟩ = false := by decide
theorem test_wf_reset_length : FrameShape.wf ⟨0x0, 0x000, 3⟩ = false := by decide
theorem test_wf_write : FrameShape.wf ⟨0x2, 0x004, 6⟩ = true := by decide
theorem test_wf_write_length : FrameShape.wf ⟨0x2, 0x004, 5⟩ = false := by decide
theorem test_wf_read_no_word : FrameShape.wf ⟨0x3, 0xFFF, 2⟩ = false := by decide
theorem test_wf_read_two_words : FrameShape.wf ⟨0x3, 0xE00, 10⟩ = true := by decide
theorem test_wf_reserved : FrameShape.wf ⟨0xA, 0x000, 6⟩ = false := by decide
theorem test_wf_unknown : FrameShape.wf ⟨0x1, 0x000, 6⟩ = false := by decide
theorem test_wf_no_header : frameWf [0x00] = false := by decide
theorem test_wf_command : (Instr.write 0x123 0x89ABCDEF).wf = true := by decide

/-! ## Decoding: words written out bit by bit from the formats of rule R82 -/

/-- RESET, `cccc aaaa aaaaaaaa` all zero (V-D5). -/
theorem test_decode_reset : decodeFrame [0b00000000, 0b00000000] = .ok .reset := by decide
/-- WRITE 123, 89ABCDEF (V-D3). -/
theorem test_decode_write :
    decodeFrame [0b00100001, 0b00100011, 0b11101111, 0b11001101, 0b10101011, 0b10001001] =
      .ok (.write 0x123 0x89ABCDEF) := by decide
/-- READ E00 (V-D4). -/
theorem test_decode_read :
    decodeFrame [0b00111110, 0b00000000, 0b00000000, 0b00000000, 0b00000000, 0b00000000] = .ok (.read 0xE00) := by
  decide
/-- The CMD is the HIGH nibble (V-D1). -/
theorem test_decode_write_abc : decodeFrame [0x2A, 0xBC, 0x78, 0x56, 0x34, 0x12] = .ok (.write 0xABC 0x12345678) := by
  decide
/-- The outgoing payload of a READ is ignored (V-D7). -/
theorem test_decode_read_payload : decodeFrame [0x3E, 0x00, 0xDE, 0xAD, 0xBE, 0xEF] = .ok (.read 0xE00) := by decide

/-! The refusals of V-D7. -/

theorem test_decode_empty : decodeFrame [] = .refused .noHeader := by decide
theorem test_decode_one_byte : decodeFrame [0x00] = .refused .noHeader := by decide
theorem test_decode_reset_low_address : decodeFrame [0x00, 0x01] = .refused .malformedReset := by decide
theorem test_decode_reset_high_address : decodeFrame [0x01, 0x00] = .refused .malformedReset := by decide
theorem test_decode_reset_long : decodeFrame [0x00, 0x00, 0x00] = .refused .malformedReset := by decide
theorem test_decode_write_short : decodeFrame [0x20, 0x04, 0x0F, 0x0F, 0x3E] = .refused .badLength := by decide
theorem test_decode_write_header_only : decodeFrame [0x20, 0x04] = .refused .badLength := by decide
theorem test_decode_write_two_words :
    decodeFrame [0x20, 0x04, 1, 2, 3, 4, 5, 6, 7, 8] = .refused .multiWord := by decide
theorem test_decode_read_long : decodeFrame [0x3E, 0, 0, 0, 0, 0, 0] = .refused .badLength := by decide
theorem test_decode_unknown_1 : decodeFrame [0x10, 0, 0, 0, 0, 0] = .refused .unknownCmd := by decide
theorem test_decode_unknown_4 : decodeFrame [0x4E, 0x00] = .refused .unknownCmd := by decide
theorem test_decode_unknown_9 : decodeFrame [0x9F, 0xFF, 0, 0, 0, 0] = .refused .unknownCmd := by decide
theorem test_decode_unknown_d : decodeFrame [0xD0, 0x00] = .refused .unknownCmd := by decide
theorem test_decode_unknown_f : decodeFrame [0xFF, 0xFF, 0xFF, 0xFF, 0xFF, 0xFF] = .refused .unknownCmd := by decide
theorem test_decode_reserved_a : decodeFrame [0xA0, 0, 0, 0, 0, 0] = .refused .reservedCrcSafe := by decide
theorem test_decode_reserved_b : decodeFrame [0xB0, 0, 0, 0] = .refused .reservedCrcSafe := by decide
theorem test_decode_reserved_c : decodeFrame [0xCE, 0, 0, 0, 0, 0, 0, 0] = .refused .reservedCrcSafe := by decide

/-- The table's words: the header alone, and a whole WRITE. -/
theorem test_table_word_reset : decodeTableWord 16 0x0000 = some .reset := by decide
theorem test_table_word_read : decodeTableWord 16 0x3E14 = some (.read 0xE14) := by decide
theorem test_table_word_write : decodeTableWord 48 0x89ABCDEF2123 = some (.write 0x123 0x89ABCDEF) := by decide
theorem test_table_word_reserved : decodeTableWord 16 0xA000 = none := by decide

/-! ## Assembly (V-D1, V-D2) -/

theorem test_hdr_read_123 : hdr 0x3 0x123 = [0x31, 0x23] := by decide
theorem test_hdr_write_0ff : hdr 0x2 0x0FF = [0x20, 0xFF] := by decide
theorem test_pack32 : pack32 0x89ABCDEF = [0xEF, 0xCD, 0xAB, 0x89] := by decide
theorem test_unpack32_bit_31 : unpack32 0x00 0x00 0x00 0x80 = 0x80000000 := by decide
/-- `WRITE 123, 89ABCDEF` as wire bits: the first 16 (V-D3). -/
theorem test_wire_bits : (wireBits (encode (.write 0x123 0x89ABCDEF))).take 16 =
    [false, false, true, false, false, false, false, true, false, false, true, false, false, false, true, true] := by
  decide

/-! ## The three commands -/

/-- V-D4: `READ 123` captures `12 34 78 56 34 12`. -/
theorem test_read_word : (nextOf (exec (.read 0x123) (onTape (six 0x12 0x34 0x78 0x56 0x34 0x12)))).bind
    (·.hostResult) = some (.ok, some 0x12345678) := by decide
/-- V-D6: `READ E00` cut after five bytes: `RDATA` is not written. -/
theorem test_read_cut_keeps_rdata :
    (nextOf (exec (.read 0xE00) { onTape ((six 0 0 0x60 0x04 0 0).take 5 ++ [.cut]) with rdata := 0x04980760 })).map
      (fun t => (t.rdata, t.status, t.cs, t.phase)) = some (0x04980760, .busIoErr, .released, .idle) := by decide
/-- V-D3: `WRITE 123, 89ABCDEF`. -/
theorem test_write_frame : frames (exec (.write 0x123 0x89ABCDEF) (onRef [])) =
    some [[0x21, 0x23, 0xEF, 0xCD, 0xAB, 0x89]] := by decide
/-- P5: `WRITE FFE, A1B2C3D4` wraps on the reference device. -/
theorem test_write_wraps : (nextOf (exec (.write 0xFFE 0xA1B2C3D4) (onRef []))).map (·.mem) =
    some [(0x000, 0xB2), (0x001, 0xA1), (0xFFE, 0xD4), (0xFFF, 0xC3)] := by decide
/-- V-D5: RESET sends two zero bytes, completes with `OK` and returns a status only. -/
theorem test_reset_frame : (nextOf (exec .reset (onTape [.moved 0xAA, .moved 0x55]))).map
    (fun t => (wireFrames t.wire, t.hostResult, t.phase)) = some ([[0x00, 0x00]], some (.ok, none), .idle) := by decide
/-- V-D6: RESET cut after one byte does not sleep. -/
theorem test_reset_cut_does_not_sleep : (nextOf (exec .reset (onTape [.moved 0, .cut]))).map
    (fun t => (t.wire, t.status)) = some ([.csLow, .byte 0x00, .csHigh], .busIoErr) := by decide

/-- R191: the status port after a fault; R21: nothing has written `STATUS` at reset. -/
theorem test_status_port : (nextOf (exec .reset (onTape [.cut]))).map (fun t => (t.statusPort, t.statusWritten)) =
    some (1#1, true) ∧ State.reset.statusWritten = false := by decide
/-- P1: a READ of a word without a value faults. -/
theorem test_read_no_value : faultOf (exec (.read 0x404) (onRef [(0x400, 0xEF), (0x401, 0xCD)])) =
    some (.noDeviceValue 0x404) := by decide
/-- U16: a bus primitive that never returns. -/
theorem test_hang : faultOf (exec .reset (onTape [.moved 0, .hang])) = some .busHung := by decide
/-- R222: a row of the reset table, and the last FIFO. -/
theorem test_reset_table : (ciFIFOCON 31, 0x00600400#32) ∈ resetTable ∧ (oscAddr, 0x00000460#32) ∈ resetTable ∧
    resetTable.length = 41 := by decide

/-! ## Small steps (V-D8) and the machine's step -/

theorem test_accept : (nextOf (microStep { onTape [] with offers := [.write 0x123 0x89ABCDEF] })).map
    (fun t => (t.phase, t.cs, t.len, t.idx, t.tx)) =
      some (.xfer, .asserted, 6, 0, ⟨0x21, 0x23, 0xEF, 0xCD, 0xAB, 0x89⟩) := by decide
theorem test_byte : (nextOf (microStep (midWrite 5 [.moved 0x7E]))).map (fun t => (t.phase, t.idx, t.rx.b5)) =
    some (.xfer, 6, 0x7E) := by decide
theorem test_finish : (nextOf (microStep (midWrite 6 []))).map (fun t => (t.phase, t.cs, t.status)) =
    some (.idle, .released, .ok) := by decide
theorem test_wake : (nextOf (microStep asleep)).map (fun t => (t.phase, t.status)) = some (.idle, .ok) := by decide

/-- The word of the opcode table's READ row, presented after reset, is the first command to run. -/
theorem test_step_runs_table_word : step (State.reset.withFetchWord 16 0x3E00) = exec (.read 0xE00) State.reset := by
  rfl
theorem test_step_goes_on : (nextOf (step (State.reset.withFetchWord 48 0x2000))).isSome = true := by decide

/-! ## Host macros (V-D9) -/

theorem test_rmw : frames (rmw 0x000 0x07000000 0x06000000
    (onRef [(0x000, 0x60), (0x001, 0x07), (0x002, 0x98), (0x003, 0x04)])) =
      some [[0x30, 0, 0, 0, 0, 0], [0x20, 0x00, 0x60, 0x07, 0x98, 0x06]] := by decide
theorem test_writeb : frames (writeb 0x1D1 0x81
    (onRef [(0x1D0, 0x11), (0x1D1, 0x22), (0x1D2, 0x33), (0x1D3, 0x44)])) =
      some [[0x31, 0xD0, 0, 0, 0, 0], [0x21, 0xD0, 0x11, 0x81, 0x33, 0x44]] := by decide

/-! ## Witnesses: for each statement with hypotheses, a state and operands that meet all of them, clause by clause -/

theorem witness_HeaderIsCmdThenAddress : hdr 0x2 0xABC = [0x2A, 0xBC] := by decide
theorem witness_AssemblyFunctionsAreBijections : hdr 0xF 0xFFF = [0xFF, 0xFF] := by decide
theorem witness_WireBits : (7 : Nat) < 8 ∧ ([0x21, 0x23] : List Byte)[1]? = some 0x23 := by decide
theorem witness_DecodeHeader : hdr 0x3 0x1F4 = [0x31, 0xF4] := by decide

theorem witness_DecodeFrameTable_short : ([0x00] : List Byte).length < 2 := by decide
theorem witness_DecodeFrameTable_reset : decodeHeader 0x00 0x00 = (0x0, 0x000) := by decide
theorem witness_DecodeFrameTable_malformed : decodeHeader 0x01 0x00 = (0x0, 0x100) ∧ (0x100 : Addr) ≠ 0 := by decide
theorem witness_DecodeFrameTable_write : decodeHeader 0x2F 0xFF = (0x2, 0xFFF) := by decide
theorem witness_DecodeFrameTable_read : decodeHeader 0x3E 0x00 = (0x3, 0xE00) ∧ ([0, 0, 0, 0] : List Byte).length = 4 := by
  decide
theorem witness_DecodeFrameTable_multiWord : decodeHeader 0x20 0x04 = (0x2, 0x004) ∧ 2 ≤ 2 ∧
    ([1, 2, 3, 4, 5, 6, 7, 8] : List Byte).length = 4 * 2 := by decide
theorem witness_DecodeFrameTable_badLength : decodeHeader 0x3F 0xFF = (0x3, 0xFFF) ∧
    ∀ k, 1 ≤ k → ([] : List Byte).length ≠ 4 * k := ⟨by decide, fun k hk h => by simp at h; omega⟩
theorem witness_DecodeFrameTable_reserved : decodeHeader 0xCE 0x00 = (0xC, 0xE00) := by decide
theorem witness_DecodeFrameTable_unknown : decodeHeader 0x9F 0xFF = (0x9, 0xFFF) ∧ (0x4 : CmdCode) ≤ 0x9 ∧
    decodeHeader 0xD0 0x00 = (0xD, 0x000) := by decide

theorem witness_DecodeAndEncodeAgree_same : decodeFrame [0x00, 0x00] = .ok .reset ∧ encode .reset = encode .reset := by
  decide
theorem witness_DecodeAndEncodeAgree_ignored_payload :
    decodeFrame [0x3E, 0x00, 0xDE, 0xAD, 0xBE, 0xEF] = .ok (.read 0xE00) := by decide
theorem witness_WellFormedFrames : frameWf [0x20, 0x04, 1, 2, 3, 4, 5, 6, 7, 8] = true ∧
    2 ≤ ([0x04030201, 0x08070605] : List Word).length := by decide
theorem witness_OpcodeTable : ∃ r ∈ opcodeTable, r.selects 0x3E00 = true ∧ [0, 0, 0, 0].length + 2 = r.frameBytes :=
  ⟨⟨"READ", 6, 0xF000, 0x3000⟩, by decide⟩

/-- The bytes `bs` are exchanged, then nothing is decided. -/
theorem moves_of (bs : List Byte) : (onTape (bs.map .moved)).moves bs.length :=
  State.moves_of_tape _ bs [] _ (by simp [onTape]) (Nat.le_refl _)
/-- The bytes `bs` are exchanged, then the exchange is cut. -/
theorem cuts_of (bs : List Byte) : (onTape (bs.map .moved ++ [.cut])).cutsAt bs.length :=
  State.cutsAt_of_tape _ bs [] rfl
/-- The bytes `bs` are exchanged, then the bus primitive never returns. -/
theorem hangs_of (bs : List Byte) : (onTape (bs.map .moved ++ [.hang])).hangsAt bs.length :=
  State.hangsAt_of_tape _ bs [] rfl
/-- The real device answers every command. -/
theorem oracle_answers (tape : List BusEvent) (i : Instr) : (onTape tape).answers i := fun _ _ h => by cases h

theorem witness_ResetCompletes_moves : ∃ s : State, s.phase = .idle ∧ s.moves 2 := ⟨_, rfl, moves_of [0xAA, 0x55]⟩
theorem witness_ResetCompletes_cut_first : ∃ s : State, s.phase = .idle ∧ s.cutsAt 0 := ⟨_, rfl, cuts_of []⟩
theorem witness_ResetCompletes_cut_last : ∃ s : State, s.phase = .idle ∧ s.cutsAt 1 := ⟨_, rfl, cuts_of [0x00]⟩
theorem witness_ReadCompletes_moves : ∃ s : State, s.phase = .idle ∧ s.moves 6 ∧ s.answers (.read 0xFFF) :=
  ⟨_, rfl, moves_of [1, 2, 3, 4, 5, 6], oracle_answers _ _⟩
theorem witness_ReadCompletes_reference : ∃ s : State, s.device = .reference ∧ s.phase = .idle ∧ s.moves 6 ∧
    s.answers (.read 0x400) :=
  ⟨onRef [(0x400, 0xEF), (0x401, 0xCD), (0x402, 0xAB), (0x403, 0x89)], rfl, rfl,
    State.moves_of_reference _ 6 (by decide) rfl, fun a ha _ => by cases ha; decide⟩
theorem witness_ReadCompletes_cut_first : ∃ s : State, s.phase = .idle ∧ s.cutsAt 0 := ⟨_, rfl, cuts_of []⟩
theorem witness_ReadCompletes_cut_header : ∃ s : State, s.phase = .idle ∧ s.device = .reference ∧ s.cutsAt 2 ∧ 2 ≤ 2 :=
  ⟨{ onRef [] with tape := [.moved 0, .moved 0, .cut] }, rfl, rfl, State.cutsAt_of_tape _ [0, 0] [] rfl, by decide⟩
theorem witness_ReadCompletes_cut_last : ∃ s : State, s.phase = .idle ∧ s.cutsAt 5 ∧ s.answers (.read 0xE00) :=
  ⟨_, rfl, cuts_of [0, 0, 0x60, 0x04, 0], oracle_answers _ _⟩
theorem witness_WriteCompletes_moves : ∃ s : State, s.phase = .idle ∧ s.moves 6 :=
  ⟨onRef [], rfl, State.moves_of_reference _ 6 (by decide) rfl⟩
theorem witness_WriteCompletes_cut : ∃ s : State, s.phase = .idle ∧ s.cutsAt 5 := ⟨_, rfl, cuts_of [0, 0, 0, 0, 0]⟩

theorem witness_ShortExchange : ∃ s : State, s.phase = .idle ∧ 5 < frameLen (.read 0xE00) ∧ s.cutsAt 5 ∧
    (s.answers (.read 0xE00) ∨ 5 ≤ 2) :=
  ⟨_, rfl, by decide, cuts_of [0, 0, 0x60, 0x04, 0], .inl (oracle_answers _ _)⟩
theorem witness_ReadOfNoValue : ∃ s : State, s.phase = .idle ∧ s.moves 3 ∧ s.device = .reference ∧
    s.mem.read32 0x3FE = none :=
  ⟨onRef [(0x400, 0xEF), (0x401, 0xCD)], rfl, State.moves_of_reference _ 3 (by decide) rfl, rfl, by decide⟩
theorem witness_HungBus_first : ∃ s : State, s.phase = .idle ∧ 0 < frameLen .reset ∧ s.hangsAt 0 :=
  ⟨_, rfl, by decide, hangs_of []⟩
theorem witness_HungBus_last : ∃ s : State, s.phase = .idle ∧ 5 < frameLen (.write 0 0) ∧ s.hangsAt 5 ∧
    s.answers (.write 0 0) := ⟨_, rfl, by decide, hangs_of [0, 0, 0, 0, 0], oracle_answers _ _⟩
theorem witness_EveryCommand_ok : ∃ s : State, s.phase = .idle ∧ s.busReturns (frameLen (.read 0)) ∧
    s.answers (.read 0) ∧ s.moves (frameLen (.read 0)) :=
  ⟨_, rfl, State.busReturns_of_moves (moves_of [1, 2, 3, 4, 5, 6]), oracle_answers _ _, moves_of [1, 2, 3, 4, 5, 6]⟩
theorem witness_EveryCommand_cut : ∃ s : State, s.phase = .idle ∧ s.busReturns (frameLen .reset) ∧
    s.answers .reset ∧ s.cutsAt 1 := by
  refine ⟨_, rfl, ?_, oracle_answers _ _, cuts_of [0x00]⟩
  intro k hk hh
  have hh := hh.2
  match k, hk with
  | 0, _ => cases hh
  | 1, _ => cases hh
theorem witness_BusyBlock : (midWrite 3 []).phase ≠ .idle ∧ asleep.phase ≠ .idle := by decide

/-- A READ that completes with `OK`, and one that does not. -/
theorem witness_RdataValidity_read : ∃ s t : State, s.phase = .idle ∧ exec (.read 0xE00) s = .next t ∧ t.status = .ok :=
  ⟨onTape (six 0 0 0x60 0x04 0 0), _, rfl, rfl, by decide⟩
theorem witness_RdataValidity_faulted : ∃ s t : State, s.phase = .idle ∧ exec (.read 0xE00) s = .next t ∧
    t.status = .busIoErr := ⟨onTape [.moved 0, .cut], _, rfl, rfl, by decide⟩
theorem witness_RdataValidity_other : ∃ s t : State, (Instr.write 0x100 0x01020304).op ≠ .read ∧
    exec (.write 0x100 0x01020304) s = .next t := ⟨onRef [], _, by decide, rfl⟩

theorem witness_CommandFrame_reset : ∃ s t : State, exec .reset s = .next t ∧ s.device = .oracle :=
  ⟨onTape [.moved 0, .moved 0], _, rfl, rfl⟩
theorem witness_CommandFrame_reset_cut : ∃ s t : State, exec .reset s = .next t ∧ s.device = .reference ∧
    t.status = .busIoErr := ⟨{ onRef [] with tape := [.moved 0, .cut] }, _, rfl, rfl, by decide⟩
theorem witness_CommandFrame_read : ∃ s t : State, exec (.read 0xFFF) s = .next t := ⟨onTape (six 0 0 0 0 0 0), _, rfl⟩
theorem witness_CommandFrame_write : ∃ s t : State, exec (.write 0xFFE 0xA1B2C3D4) s = .next t ∧
    (∀ j < 4, (0x002 : Addr) ≠ byteAddr 0xFFE j) ∧ (∀ j < 4, (0xFFD : Addr) ≠ byteAddr 0xFFE j) :=
  ⟨onRef [], _, rfl, by decide, by decide⟩

theorem witness_NoCommandDepends : ∃ s t s' t' : State, s ≠ t ∧ s.phase = .idle ∧ t.phase = .idle ∧
    SameEnvironment s t ∧ exec (.read 0x400) s = .next s' ∧ exec (.read 0x400) t = .next t' :=
  ⟨onTape (six 0 0 1 0 0 0), { onTape (six 0 0 1 0 0 0) with rdata := 7, wdata := 9, status := .busIoErr }, _, _,
    by decide, rfl, rfl, ⟨rfl, rfl, rfl, rfl⟩, rfl, rfl⟩
theorem witness_NoCommandDepends_fault : ∃ s t : State, s ≠ t ∧ s.phase = .idle ∧ t.phase = .idle ∧
    SameEnvironment s t ∧ exec (.read 0x404) s = .fault (.noDeviceValue 0x404) :=
  ⟨onRef [], { onRef [] with rdata := 7 }, by decide, rfl, rfl, ⟨rfl, rfl, rfl, rfl⟩, rfl⟩
theorem witness_OneFrame : ∃ s t : State, s.phase = .idle ∧ exec (.write 0x123 0x89ABCDEF) s = .next t ∧
    t.status = .ok := ⟨onRef [], _, rfl, rfl, by decide⟩
theorem witness_OneFrame_cut : ∃ s t : State, s.phase = .idle ∧ exec .reset s = .next t ∧ t.status = .busIoErr :=
  ⟨onTape [.cut], _, rfl, rfl, by decide⟩

theorem witness_AcceptStep : ∃ s : State, s.phase = .idle ∧ s.offers = [.reset, .read 0xE00] :=
  ⟨{ onTape [] with offers := [.reset, .read 0xE00] }, rfl, rfl⟩
theorem witness_AcceptStep_busy : ∃ s t : State, s.phase ≠ .idle ∧ microStep s = .next t :=
  ⟨midWrite 0 [.moved 0], _, by decide, rfl⟩
theorem witness_ByteStep : ∃ s : State, s.phase = .xfer ∧ s.idx < s.len ∧ s.moves 1 ∧
    s.tx.byte? s.idx.toNat = some 0x89 ∧
    deviceByte s.device s.mem s.frame s.idx.toNat (s.choice 0) = .ok 0x7E ∧ s.device = .oracle :=
  ⟨midWrite 5 [.moved 0x7E], rfl, by decide, State.moves_of_tape _ [0x7E] [] 1 rfl (by decide), by decide, rfl, rfl⟩
theorem witness_ShortStep : ∃ s : State, s.phase = .xfer ∧ s.idx < s.len ∧ s.idx < 6 ∧ s.cutsAt 0 :=
  ⟨midWrite 3 [.cut], rfl, by decide, by decide, State.cutsAt_of_tape _ [] [] rfl⟩
theorem witness_FinishStep_write : (midWrite 6 []).phase = .xfer ∧ (midWrite 6 []).idx = (midWrite 6 []).len ∧
    (midWrite 6 []).op = .write := by decide
theorem witness_FinishStep_read_reset : ∃ s t : State, s.phase = .xfer ∧ s.idx = s.len ∧ s.op = .read ∧
    t.phase = .xfer ∧ t.idx = t.len ∧ t.op = .reset :=
  ⟨{ midWrite 6 [] with op := .read }, { asleep with phase := .xfer }, rfl, rfl, rfl, rfl, rfl, rfl⟩
theorem witness_WakeStep : asleep.phase = .sleep := rfl
theorem witness_SmallSteps : State.reset.phase = .idle := rfl

theorem witness_StepRuns : ∃ s : State, s.phase = .idle ∧ s.offers = [.read 0xE00] ∧
    decodeTableWord 16 0x3E00 = some (.read 0xE00) :=
  ⟨{ onTape [] with offers := [.read 0xE00] }, rfl, rfl, by decide⟩
theorem witness_StepRuns_waits : State.reset.phase = .idle ∧ State.reset.offers = [] := ⟨rfl, rfl⟩
theorem witness_StepRuns_busy : (midWrite 1 []).phase ≠ .idle := by decide

theorem witness_Inv_idle : ∃ s t : State, s.Inv ∧ step s = .next t :=
  ⟨{ onRef [] with offers := [.write 0xFFE 0xA1B2C3D4] }, _, by unfold State.Inv; decide, rfl⟩
theorem witness_Inv_xfer : ∃ s t : State, s.Inv ∧ step s = .next t ∧ microStep s = .next t :=
  ⟨midWrite 3 [.moved 0], _, by unfold State.Inv; decide, rfl, rfl⟩
theorem witness_Inv_sleep : ∃ s t : State, s.Inv ∧ step s = .next t ∧ microStep s = .next t :=
  ⟨asleep, _, by unfold State.Inv; decide, rfl, rfl⟩
theorem witness_OnlyTheEnvironment_hang : ∃ s : State, s.Inv ∧ step s = .fault .busHung :=
  ⟨midWrite 3 [.hang], by unfold State.Inv; decide, rfl⟩
theorem witness_OnlyTheEnvironment_no_value : ∃ s : State, s.Inv ∧ step s = .fault (.noDeviceValue 0x404) :=
  ⟨{ onRef [] with offers := [.read 0x404] }, by unfold State.Inv; decide, rfl⟩

theorem witness_MemWrite : ((0x001 : Addr) - 0xFFE).toNat < 4 ∧ ¬ ((0x002 : Addr) - 0xFFE).toNat < 4 ∧
    ¬ ((0xFFD : Addr) - 0xFFE).toNat < 4 := by decide
theorem witness_ResetRestores : ∃ s t : State, s.phase = .idle ∧ s.device ≠ .oracle ∧ exec .reset s = .next t ∧
    t.status = .ok := ⟨onRef [], _, rfl, by decide, rfl, rfl⟩
theorem witness_ResetRestores_outside : ∀ row ∈ resetTable, 4 ≤ ((0x010 : Addr) - row.1).toNat := by
  have h : (resetTable.all fun row => decide (4 ≤ ((0x010 : Addr) - row.1).toNat)) = true := by rfl
  simpa using h
theorem witness_WriteThenRead : ∃ s : State, s.phase = .idle ∧ s.device = .reference ∧ s.tape = [] :=
  ⟨onRef [], rfl, rfl, rfl⟩
theorem witness_FaultLeaves_fault : ∃ s t : State, s.phase = .idle ∧ s.device ≠ .oracle ∧
    exec (.write 0x004 0x003E0F0F) s = .next t ∧ t.status = .busIoErr :=
  ⟨{ onRef [] with tape := [.moved 0, .moved 0, .moved 0, .cut] }, _, rfl, by decide, rfl, by decide⟩
theorem witness_FaultLeaves_oracle : ∃ s t : State, s.phase = .idle ∧ s.device = .oracle ∧
    exec (.write 0x004 0x003E0F0F) s = .next t ∧ t.status = .busIoErr :=
  ⟨onTape [.moved 0, .cut], _, rfl, rfl, rfl, by decide⟩
theorem witness_FaultLeaves_reference : ∃ s t : State, s.phase = .idle ∧ s.device = .reference ∧
    exec (.write 0x004 0x003E0F0F) s = .next t ∧ t.status = .ok := ⟨onRef [], _, rfl, rfl, rfl, by decide⟩
theorem witness_FaultLeaves_unknown_reset : ∃ s t : State, s.phase = .idle ∧ s.device = .unknown ∧
    exec .reset s = .next t ∧ t.status = .ok := ⟨{ onRef [] with device := .unknown }, _, rfl, rfl, rfl, rfl⟩
theorem witness_FaultLeaves_ok : ∃ s t : State, s.phase = .idle ∧ s.device = .unknown ∧
    exec (.read 0x004) s = .next t ∧ t.status = .ok := ⟨{ onRef [] with device := .unknown }, _, rfl, rfl, rfl, rfl⟩

theorem witness_Rmw : ∃ s t : State, s.phase = .idle ∧ exec (.read 0x000) s = .next t ∧ t.status = .ok :=
  ⟨onTape (six 0 0 0x60 0x07 0x98 0x04), _, rfl, rfl, by decide⟩
theorem witness_Rmw_fault : ∃ s t : State, s.phase = .idle ∧ exec (.read 0x000) s = .next t ∧ t.status = .busIoErr :=
  ⟨onTape [.cut], _, rfl, rfl, by decide⟩
theorem witness_Writeb : ∃ s : State, s.phase = .idle ∧ s.device = .reference ∧ s.tape = [] ∧
    s.mem.read32 (0x1EF &&& 0xFFC) ≠ none :=
  ⟨onRef [(0x1EC, 0), (0x1ED, 0), (0x1EE, 0), (0x1EF, 0)], rfl, rfl, rfl, by decide⟩
theorem witness_Poll_ok : ∃ s t : State, s.phase = .idle ∧
    poll 0xE00 (fun w => w == 0x00001400) .oscUnstable 2 s = .ended .ok t :=
  ⟨onTape (six 0 0 0x60 0x04 0 0 ++ six 0 0 0x00 0x14 0 0), _, rfl, rfl⟩
theorem witness_Poll_timeout : ∃ s t : State, s.phase = .idle ∧
    poll 0xE00 (fun w => w == 0x00001400) .oscUnstable 1 s = .ended .oscUnstable t :=
  ⟨onTape (six 0 0 0x60 0x04 0 0), _, rfl, rfl⟩
theorem witness_Poll_fault : ∃ s t : State, s.phase = .idle ∧
    poll 0xE00 (fun w => w == 0x00001400) .oscUnstable 1 s = .ended .busIoErr t := ⟨onTape [.cut], _, rfl, rfl⟩
theorem witness_FieldHelpers : (1 ≤ 32 ∧ 0 + 32 ≤ 32) ∧ (1 ≤ 1 ∧ 31 + 1 ≤ 32) := by decide
theorem witness_AddressMap : Region.canSfr.holds 0x04F = true ∧ Region.deviceSfr.holds 0xE17 = true ∧
    regionOf 0x2F0 = none ∧ regionOf 0xC00 = none ∧ regionOf 0xE18 = none := by decide

theorem witness_PayloadByteOrder : ∃ s t : State, s.phase = .idle ∧ exec (.read 0xE00) s = .next t ∧ t.status = .ok ∧
    ([0x04030201, 0x08070605] : List Word)[1]? = some 0x08070605 :=
  ⟨onTape (six 0 0 0x60 0x04 0 0), _, rfl, rfl, by decide, by decide⟩
theorem witness_WireOrder : hdr 0x2 0xABC = [0x2A, 0xBC] ∧ (3 : Nat) < 4 ∧ (11 : Nat) < 12 := by decide
theorem witness_StatusIsWritten : ∃ s : State, s.phase = .idle ∧ s.moves (frameLen .reset) ∧ s.answers .reset :=
  ⟨_, rfl, moves_of [0, 0], oracle_answers _ _⟩
theorem witness_StatusIsWritten_cut : ∃ s : State, s.phase = .idle ∧ 5 < frameLen (.read 0) ∧ s.cutsAt 5 ∧
    (s.answers (.read 0) ∨ 5 ≤ 2) := ⟨_, rfl, by decide, cuts_of [0, 0, 0, 0, 0], .inl (oracle_answers _ _)⟩
theorem witness_ChipSelectDiscipline : ∃ s t : State, (s.cs = .asserted ↔ s.phase = .xfer) ∧ microStep s = .next t ∧
    t.wire = s.wire ++ [.byte 0x89] := ⟨midWrite 5 [.moved 0x7E], _, by decide, rfl, rfl⟩
theorem witness_ChipSelectDiscipline_command : ∃ s t : State, s.phase = .idle ∧ exec .reset s = .next t :=
  ⟨onTape [.moved 0, .cut], _, rfl, rfl⟩
theorem witness_CommandsRunInOrder : ∃ s t : State, s.phase = .idle ∧ s.offers = [.write 0x400 0x00000001, .read 0x400] ∧
    steps 2 s = .next t :=
  ⟨{ onRef [] with offers := [.write 0x400 0x00000001, .read 0x400] }, _, rfl, rfl, rfl⟩

end Sys2Proof.Tests
end

/-! ## What one small step can do, said once (10_state.md rules R28 to R32) -/
namespace Sys2Proof.Machine

/-- The small steps of R28 to R32 and the wait of an idle block (R38), as a relation between the state before and the
state after; the environment's choice is spent from `tape` or from the draws. -/
inductive SmallStep (s : State) : State → Prop
  | wait : s.phase = .idle → s.offers = [] → SmallStep s s
  | accept (i : Instr) (rest : List Instr) : s.phase = .idle → s.offers = i :: rest →
      SmallStep s (accept i { s with offers := rest })
  | byte (sent b c : Byte) (tape : List BusEvent) (draws : Nat) : s.phase = .xfer → s.idx < s.len →
      s.tx.byte? s.idx.toNat = some sent → deviceByte s.device s.mem s.frame s.idx.toNat b = .ok c →
      SmallStep s (moveByte sent c { s with tape := tape, draws := draws })
  | short (tape : List BusEvent) (draws : Nat) : s.phase = .xfer → s.idx < s.len →
      SmallStep s (raiseBusIoErr { s with tape := tape, draws := draws })
  | finish : s.phase = .xfer → s.idx = s.len → SmallStep s (microFinish s)
  | wake : s.phase = .sleep → SmallStep s (microWake s)

/-- The device's answer, where there is one, is what a `byte` step captures. -/
theorem SmallStep.of_microAnswer {s t : State} {sent b : Byte} {tape : List BusEvent} {draws : Nat}
    (hp : s.phase = .xfer) (hi : s.idx < s.len) (hsent : s.tx.byte? s.idx.toNat = some sent)
    (h : microAnswer sent b { s with tape := tape, draws := draws } = .next t) : SmallStep s t := by
  unfold microAnswer at h
  split at h
  · cases h
  · next c hc =>
    cases h
    exact .byte sent b c tape draws hp hi hsent hc

/-- In `XFER` with `IDX < LEN` the step is `byte` or `short`, at the environment's choice (R29, R30). -/
theorem SmallStep.of_microByte {s t : State} (hp : s.phase = .xfer) (hi : s.idx < s.len)
    (h : microByte s = .next t) : SmallStep s t := by
  unfold microByte at h
  split at h
  · cases h
  · next sent hsent =>
    split at h
    · next tape _ => cases h; exact .short tape s.draws hp hi
    · cases h
    · next b tape _ => exact of_microAnswer hp hi hsent h
    · split at h
      · next hd =>
        split at h <;> cases h
        · exact .short s.tape (s.draws + 1) hp hi
        · exact .byte sent _ _ s.tape (s.draws + 1) hp hi hsent (by rw [hd]; rfl)
      · exact of_microAnswer hp hi hsent h
      · exact of_microAnswer hp hi hsent h

/-- Every next state of the transaction machine is reached by one of the steps of R28 to R32. -/
theorem SmallStep.of_microStep {s t : State} (h : microStep s = .next t) : SmallStep s t := by
  cases hp : s.phase with
  | idle =>
    cases ho : s.offers with
    | nil =>
      simp only [microStep, hp, fetch, ho] at h
      cases h
      exact .wait hp ho
    | cons i rest =>
      simp only [microStep, hp, fetch, ho] at h
      cases h
      exact .accept i rest hp ho
  | xfer =>
    simp only [microStep, hp, microXfer] at h
    split at h
    · next hi => exact of_microByte hp hi h
    · split at h
      · next hi => cases h; exact .finish hp hi
      · cases h
  | sleep =>
    rw [microStep_sleep s hp] at h
    cases h
    exact .wake hp

/-! ## `finish` and `wake` on the fields of the chip-select discipline -/

@[simp] theorem microFinish_cs (s : State) : (microFinish s).cs = .released := by
  unfold microFinish; split <;> rfl

@[simp] theorem microFinish_wire (s : State) : (microFinish s).wire = s.wire ++ [.csHigh] := by
  unfold microFinish; split <;> rfl

theorem microFinish_phase_ne_xfer (s : State) : (microFinish s).phase ≠ .xfer := by
  unfold microFinish; split <;> simp

@[simp] theorem microWake_cs (s : State) : (microWake s).cs = s.cs := rfl
@[simp] theorem microWake_phase (s : State) : (microWake s).phase = .idle := rfl
@[simp] theorem microWake_wire (s : State) :
    (microWake s).wire = s.wire ++ [.slept (Config.tResetSleepActual s.draws)] := rfl

/-! ## Chip-select along the small steps (R35) -/

/-- Chip-select stays asserted exactly in `XFER` (R35(a)): `accept` begins both, `short` and `finish` end both, and
the other steps change neither or leave a released line released. -/
theorem SmallStep.cs_asserted_iff {s t : State} (h : SmallStep s t) (hs : s.cs = .asserted ↔ s.phase = .xfer) :
    t.cs = .asserted ↔ t.phase = .xfer := by
  cases h with
  | wait => exact hs
  | accept => simp
  | byte => simpa using hs
  | short => simp
  | finish => simp [microFinish_phase_ne_xfer]
  | wake hp => simpa [hp] using hs

/-- Only a `byte` step puts a byte on the wire, and it begins and ends in `XFER` (R29, R35(b)). -/
theorem SmallStep.xfer_of_wire_byte {s t : State} {b : Byte} (h : SmallStep s t)
    (hw : t.wire = s.wire ++ [.byte b]) : s.phase = .xfer ∧ t.phase = .xfer := by
  cases h with
  | wait => simp at hw
  | accept => simp at hw
  | byte _ _ _ _ _ hp => exact ⟨hp, hp⟩
  | short => simp at hw
  | finish => simp at hw
  | wake => simp at hw

/-! ## The bus log of a whole command (R34, R110, R120, R130) -/

/-- What a command does once its whole frame has been exchanged and chip-select is released (R110, R120, R130). -/
def completion : Instr → State → State
  | .reset, s => completeOk (sleepMs s)
  | .write _ _, s => completeOk s
  | .read _, s => completeOk (loadRdata s)

/-- Every command is one transaction, followed by its own completion. -/
theorem exec_eq_transact (i : Instr) (s : State) : exec i s = transact i (completion i) s := by
  cases i <;> rfl

/-- A completion adds no more than sleeps to the bus log. -/
theorem completion_wire (i : Instr) (s : State) : ∃ ms : List Nat, (completion i s).wire = s.wire ++ ms.map .slept := by
  cases i with
  | reset => exact ⟨[Config.tResetSleepActual s.draws], rfl⟩
  | write => exact ⟨[], by simp [completion]⟩
  | read => exact ⟨[], by simp [completion]⟩

/-- The bus log of one transaction: chip-select is asserted, the bytes `bs` are taken, chip-select is released, and
the sleeps `ms` follow. -/
def transactionLog (bs : List Byte) (ms : List Nat) : List WireEvent :=
  .csLow :: bs.map .byte ++ .csHigh :: ms.map .slept

/-- A command that an idle block takes logs one transaction with a beginning of its own frame (R34, R35). -/
theorem exec_wire {i : Instr} {s t : State} (hs : s.phase = .idle) (h : exec i s = .next t) :
    ∃ n ms, t.wire = s.wire ++ transactionLog ((frameBytes i).take n) ms := by
  rw [exec_eq_transact] at h
  obtain ⟨f, -, hx⟩ | ⟨-, -, hx⟩ | ⟨-, -, hx⟩ := transact_idle i (completion i) s hs
  · rw [hx] at h
    cases h
  · rw [hx] at h
    cases h
    exact ⟨(exchange (accept i s)).rx.length, [], by simp [transactionLog]⟩
  · rw [hx] at h
    cases h
    obtain ⟨ms, hms⟩ := completion_wire i
      (deviceCommit (releaseCs (afterExchange (accept i s) (exchange (accept i s)))))
    exact ⟨(exchange (accept i s)).rx.length, ms, by simp [hms, transactionLog]⟩

@[simp] theorem transactionLog_count_csLow (bs : List Byte) (ms : List Nat) :
    (transactionLog bs ms).count .csLow = 1 := by
  have hbytes : (bs.map WireEvent.byte).count .csLow = 0 := List.count_eq_zero.mpr (by simp)
  have hsleeps : (ms.map WireEvent.slept).count .csLow = 0 := List.count_eq_zero.mpr (by simp)
  simp [transactionLog, hbytes, hsleeps]

@[simp] theorem transactionLog_count_csHigh (bs : List Byte) (ms : List Nat) :
    (transactionLog bs ms).count .csHigh = 1 := by
  have hbytes : (bs.map WireEvent.byte).count .csHigh = 0 := List.count_eq_zero.mpr (by simp)
  have hsleeps : (ms.map WireEvent.slept).count .csHigh = 0 := List.count_eq_zero.mpr (by simp)
  simp [transactionLog, hbytes, hsleeps]

/-- Settles O33. The byte and release clauses follow from the phases of the step, because chip-select is asserted
exactly in `XFER` before and after it; the edges are counted in the log that a command adds. -/
theorem chipSelectDiscipline : Obligations.ChipSelectDiscipline := by
  refine ⟨fun s t hs h => ?_, fun i s t hs h => ?_, rfl, rfl⟩
  · have hstep := SmallStep.of_microStep h
    have ht := hstep.cs_asserted_iff hs
    refine ⟨ht, fun b hw => ?_, fun hp => ?_⟩
    · obtain ⟨hsx, htx⟩ := hstep.xfer_of_wire_byte hw
      exact ⟨hs.mpr hsx, ht.mpr htx⟩
    · cases hcs : t.cs with
      | released => rfl
      | asserted => simp [ht.mp hcs] at hp
  · obtain ⟨n, ms, hw⟩ := exec_wire hs h
    simp [hw]

end Sys2Proof.Machine

/-! ## The bits of a frame in the order the wire carries them (R12, R58, R82) -/
namespace Sys2Proof

/-- Wire bit `8 i + j` is bit `7 - j` of byte `i` (R12): the most significant bit of each byte goes first. -/
theorem getElem?_wireBits (f : List Byte) (i j : Nat) (hj : j < 8) :
    (wireBits f)[8 * i + j]? = f[i]?.map fun b => b.getLsbD (7 - j) := by
  induction f generalizing i with
  | nil => simp [wireBits]
  | cons b f ih =>
    have hcons : wireBits (b :: f) = (List.range 8).map (fun j => b.getLsbD (7 - j)) ++ wireBits f := rfl
    rw [hcons]
    cases i with
    | zero => simp [List.getElem?_append_left, hj]
    | succ i =>
      rw [List.getElem?_append_right (by simp; omega), List.length_map, List.length_range,
        show 8 * (i + 1) + j - 8 = 8 * i + j by omega, ih, List.getElem?_cons_succ]

/-- The mask `2 ^ m - 1` keeps the `m` low bits. -/
theorem and_lowMask {w : Nat} (x : BitVec w) (m : Nat) :
    x &&& BitVec.ofNat w (2 ^ m - 1) = (x.setWidth m).setWidth w := by
  refine BitVec.eq_of_getLsbD_eq fun k hk => ?_
  rw [BitVec.getLsbD_and, BitVec.getLsbD_ofNat, Nat.testBit_two_pow_sub_one]
  simp [hk, Bool.and_comm]

/-- The header's bytes are the two halves of `CMD :: ADDR`, the high half first (R58, R83). -/
theorem hdr_eq_halves (c : CmdCode) (a : Addr) :
    hdr c a = [(c ++ a).extractLsb' 8 8, (c ++ a).extractLsb' 0 8] := by
  have hnibble : (a >>> 8) &&& 0x00F#12 = _ := and_lowMask (a >>> 8) 4
  have hbyte : a &&& 0x0FF#12 = _ := and_lowMask a 8
  simp only [hdr, hnibble, hbyte, List.cons.injEq, and_true]
  constructor
  · refine BitVec.eq_of_getLsbD_eq fun k hk => ?_
    rw [BitVec.getLsbD_extractLsb', BitVec.getLsbD_append]
    by_cases h : k < 4
    · simp [h, hk, show 8 + k < 12 by omega]
    · simp [h, hk, show ¬ 8 + k < 12 by omega, show 8 + k - 12 = k - 4 by omega]
  · refine BitVec.eq_of_getLsbD_eq fun k hk => ?_
    rw [BitVec.getLsbD_extractLsb', BitVec.getLsbD_append]
    simp [hk, show k < 12 by omega]

/-- Read with byte 0 in the high half, the header is `CMD :: ADDR` (R58). -/
theorem headerWord_of_hdr {c : CmdCode} {a : Addr} {h0 h1 : Byte} (h : hdr c a = [h0, h1]) :
    headerWord h0 h1 = c ++ a := by
  obtain ⟨rfl, rfl⟩ : (c ++ a).extractLsb' 8 8 = h0 ∧ (c ++ a).extractLsb' 0 8 = h1 := by
    simpa [hdr_eq_halves] using h
  rw [headerWord]
  exact BitVec.extractLsb'_append_extractLsb'_eq_extractLsb' rfl |>.trans BitVec.extractLsb'_eq_self

/-- The first 16 wire bits of a frame are its `CMD :: ADDR`, most significant bit first (R58). -/
theorem getElem?_wireBits_hdr_append (c : CmdCode) (a : Addr) (p : List Byte) (k : Nat) (hk : k < 16) :
    (wireBits (hdr c a ++ p))[k]? = some ((c ++ a).getLsbD (15 - k)) := by
  obtain ⟨i, j, hi, hj, rfl⟩ : ∃ i j, i < 2 ∧ j < 8 ∧ k = 8 * i + j :=
    ⟨k / 8, k % 8, by omega, by omega, by omega⟩
  rw [getElem?_wireBits _ i j hj, hdr_eq_halves]
  match i, hi with
  | 0, _ => simp [show 7 - j < 8 by omega, show 8 + (7 - j) = 15 - j by omega]
  | 1, _ => simp [show 7 - j < 8 by omega, show 15 - (8 + j) = 7 - j by omega]

/-- The `CMD` code of a command's frame (R86). -/
def Instr.cmdCode : Instr → CmdCode
  | .reset => 0x0#4
  | .write _ _ => 0x2#4
  | .read _ => 0x3#4

/-- Every command's frame begins with the header of its own code and address (R86). -/
theorem encode_eq_hdr_append (i : Instr) : ∃ p, encode i = hdr i.cmdCode i.addrOperand ++ p := by
  cases i with
  | reset => exact ⟨[], rfl⟩
  | write a v => exact ⟨pack32 v, rfl⟩
  | read a => exact ⟨[0x00#8, 0x00#8, 0x00#8, 0x00#8], rfl⟩

/-- Byte `2 + j` of a WRITE's frame is byte `j` of its word, counted from the least significant (R57). -/
theorem getElem?_encode_write (a : Addr) (v : Word) (j : Nat) (hj : j < 4) :
    (encode (.write a v))[2 + j]? = some (wordByte v j) := by
  match j, hj with
  | 0, _ | 1, _ | 2, _ | 3, _ => rfl

/-- Bit `b` of byte `j` of a word is bit `8 j + b` of the word (R57). -/
theorem getLsbD_wordByte (v : Word) (j b : Nat) (hb : b < 8) : (wordByte v j).getLsbD b = v.getLsbD (8 * j + b) := by
  have hmask : (v >>> (8 * j)) &&& 0x000000FF#32 = _ := and_lowMask (v >>> (8 * j)) 8
  simp [wordByte, hmask, hb]

/-- Settles O6. The code and address clauses read one fact at two places, that the first 16 wire bits of every frame are
its `CMD :: ADDR` in descending order; the word's bits follow from the order of its bytes and of the bits in a byte. -/
theorem wireOrderOfHeaderAndWord : Obligations.WireOrderOfHeaderAndWord := by
  refine ⟨fun c a h0 h1 => headerWord_of_hdr, fun i k hk => ?_, fun i k hk => ?_, fun a v j b hj hb => ?_⟩
  · obtain ⟨p, hp⟩ := encode_eq_hdr_append i
    rw [hp, getElem?_wireBits_hdr_append _ _ _ k (by omega), BitVec.getLsbD_append, if_neg (by omega),
      show 15 - k - 12 = 3 - k by omega]
    rfl
  · obtain ⟨p, hp⟩ := encode_eq_hdr_append i
    rw [hp, getElem?_wireBits_hdr_append _ _ _ (4 + k) (by omega), BitVec.getLsbD_append, if_pos (by omega),
      show 15 - (4 + k) = 11 - k by omega]
  · rw [show 16 + (8 * j + b) = 8 * (2 + j) + b by omega, getElem?_wireBits _ _ b hb,
      getElem?_encode_write a v j hj, Option.map_some, getLsbD_wordByte v j (7 - b) (by omega)]

end Sys2Proof

/-! ## Header, payload and frame by the formulas of the rules (R83, R84, R86) -/
namespace Sys2Proof

/-- The field of `len` bits from bit `start` up, as a number: a shift down and a mask of `len` ones. -/
theorem toNat_extractLsb'_eq_shiftRight_and {w : Nat} (x : BitVec w) (start len : Nat) :
    (x.extractLsb' start len).toNat = (x.toNat >>> start) &&& (2 ^ len - 1) := by
  rw [BitVec.extractLsb'_toNat, Nat.and_two_pow_sub_one_eq_mod]

/-- The header's bytes are `CMD :: ADDR[11:8]` and `ADDR[7:0]` (R83): the high half of `CMD :: ADDR` is cut
where the code ends. -/
theorem hdr_eq_fields (c : CmdCode) (a : Addr) : hdr c a = [c ++ a.extractLsb' 8 4, a.extractLsb' 0 8] := by
  have hhigh : (c ++ a).extractLsb' 8 8 = c ++ a.extractLsb' 8 4 := calc
    (c ++ a).extractLsb' 8 (4 + 4) = (c ++ a).extractLsb' 12 4 ++ (c ++ a).extractLsb' 8 4 :=
      (BitVec.extractLsb'_append_extractLsb'_eq_extractLsb' rfl).symm
    _ = c ++ a.extractLsb' 8 4 := by
      rw [BitVec.extractLsb'_append_eq_left, BitVec.extractLsb'_append_eq_of_add_le (by decide)]
  have hlow : (c ++ a).extractLsb' 0 8 = a.extractLsb' 0 8 :=
    BitVec.extractLsb'_append_eq_of_add_le (by decide)
  rw [hdr_eq_halves, hhigh, hlow]

/-- Byte `j` of a word is its bits `8 j + 7 : 8 j` (R57). -/
theorem wordByte_eq_extractLsb' (v : Word) (j : Nat) : wordByte v j = v.extractLsb' (8 * j) 8 := by
  refine BitVec.eq_of_getLsbD_eq fun b hb => ?_
  rw [getLsbD_wordByte v j b hb]
  simp [hb]

/-- Packing takes the four bytes of a word from the least significant up (R84). -/
theorem pack32_eq_fields (v : Word) :
    pack32 v = [v.extractLsb' 0 8, v.extractLsb' 8 8, v.extractLsb' 16 8, v.extractLsb' 24 8] := by
  simp only [pack32, wordByte_eq_extractLsb', Nat.mul_zero, Nat.reduceMul]

/-- A byte widened to 32 bits before the shift loses nothing when it is shifted by at most 24 (R84). -/
theorem toNat_setWidth_shiftLeft (b : Byte) {k : Nat} (hk : k ≤ 24) :
    (b.setWidth 32 <<< k).toNat = b.toNat <<< k := by
  have hlt : b.toNat <<< k < 2 ^ 32 := calc
    b.toNat <<< k = b.toNat * 2 ^ k := Nat.shiftLeft_eq ..
    _ < 2 ^ 8 * 2 ^ k := Nat.mul_lt_mul_of_pos_right b.isLt (Nat.two_pow_pos k)
    _ = 2 ^ (8 + k) := (Nat.pow_add ..).symm
    _ ≤ 2 ^ 32 := Nat.pow_le_pow_right (by decide) (by omega)
  rw [BitVec.toNat_shiftLeft, BitVec.toNat_setWidth_of_le (by decide), Nat.mod_eq_of_lt hlt]

/-- Unpacking by the rule's formula on numbers (R84). -/
theorem toNat_unpack32 (b0 b1 b2 b3 : Byte) : (unpack32 b0 b1 b2 b3).toNat =
    b0.toNat ||| (b1.toNat <<< 8) ||| (b2.toNat <<< 16) ||| (b3.toNat <<< 24) := by
  rw [unpack32, BitVec.toNat_or, BitVec.toNat_or, BitVec.toNat_or, BitVec.toNat_setWidth_of_le (by decide),
    toNat_setWidth_shiftLeft b1 (by decide), toNat_setWidth_shiftLeft b2 (by decide),
    toNat_setWidth_shiftLeft b3 (by decide)]

/-- Unpacking concatenates the four bytes, the last one in bits 31:24 (R84). -/
theorem unpack32_eq_append (b0 b1 b2 b3 : Byte) : unpack32 b0 b1 b2 b3 = b3 ++ b2 ++ b1 ++ b0 := by
  have hreverse (x0 x1 x2 x3 : Nat) : x3 ||| x2 ||| x1 ||| x0 = x0 ||| x1 ||| x2 ||| x3 := by ac_rfl
  apply BitVec.eq_of_toNat_eq
  rw [toNat_unpack32, BitVec.toNat_append, BitVec.toNat_append, BitVec.toNat_append]
  simp only [Nat.shiftLeft_or_distrib, ← Nat.shiftLeft_add, Nat.reduceAdd, hreverse]

/-- Bit 31 of the word is bit 7 of the last byte (R84). -/
theorem getLsbD_unpack32_31 (b0 b1 b2 b3 : Byte) : (unpack32 b0 b1 b2 b3).getLsbD 31 = b3.getLsbD 7 := by
  rw [unpack32_eq_append, BitVec.getLsbD_append, if_neg (by decide), BitVec.getLsbD_append, if_neg (by decide),
    BitVec.getLsbD_append, if_neg (by decide)]

/-- Settles O2. Packing is read off its fields; unpacking is settled on numbers first, where the shifts of widened
bytes lose nothing, and its fields and bit 31 follow from that. -/
theorem payloadIsLittleEndian : Obligations.PayloadIsLittleEndian := by
  refine ⟨fun v => ⟨?_, pack32_eq_fields v⟩, fun b0 b1 b2 b3 =>
    ⟨toNat_unpack32 b0 b1 b2 b3, unpack32_eq_append b0 b1 b2 b3, getLsbD_unpack32_31 b0 b1 b2 b3⟩⟩
  rw [pack32_eq_fields]
  simp only [List.map, toNat_extractLsb'_eq_shiftRight_and, Nat.shiftRight_zero, Nat.reducePow, Nat.reduceSub]

/-- Settles O1. The rule's formula on numbers is that of a concatenation and a field of the address. -/
theorem headerIsCmdThenAddress : Obligations.HeaderIsCmdThenAddress := by
  refine fun c a => ⟨hdr_eq_fields c a, fun h0 h1 h => ?_⟩
  obtain ⟨rfl, rfl⟩ : c ++ a.extractLsb' 8 4 = h0 ∧ a.extractLsb' 0 8 = h1 := by
    simpa [hdr_eq_fields] using h
  refine ⟨?_, toNat_extractLsb'_eq_shiftRight_and a 0 8, headerWord_of_hdr h⟩
  rw [BitVec.toNat_append, toNat_extractLsb'_eq_shiftRight_and a 8 4]
  rfl

/-- Settles O4. The rows of the table are the definition's; their fields are those of the header and of the word. -/
theorem frameOfEachCommand : Obligations.FrameOfEachCommand := by
  refine ⟨⟨by decide, rfl, rfl⟩, fun a => ⟨rfl, rfl, ?_⟩, fun a v => ⟨rfl, rfl, ?_⟩⟩
  · rw [frameBytes, hdr_eq_fields]
    rfl
  · rw [frameBytes, hdr_eq_fields, pack32_eq_fields]
    rfl

end Sys2Proof

/-! ## Header and payload assembly are inverse to reading them back (R85, R140) -/
namespace Sys2Proof

/-- `ADDR` is bits 3:0 of byte 0 over byte 1 (R140). -/
theorem headerAddr_eq_append (h0 h1 : Byte) : headerAddr h0 h1 = h0.extractLsb' 0 4 ++ h1 := by
  have hmask : h0 &&& 0x0F#8 = _ := and_lowMask h0 4
  refine BitVec.eq_of_getLsbD_eq fun k hk => ?_
  rw [headerAddr, hmask, BitVec.getLsbD_append]
  by_cases h : k < 8
  · simp [h, hk]
  · have hnone : h1.getLsbD k = false := BitVec.getLsbD_of_ge h1 k (by omega)
    simp [h, hk, hnone, show k - 8 < 4 by omega, show k - 8 < 8 by omega]

/-- The code is the high half of byte 0 (R140). -/
theorem headerCmd_append (c n : BitVec 4) : headerCmd (c ++ n) = c := by
  rw [headerCmd, BitVec.extractLsb'_append_eq_left]

theorem headerAddr_fields (c : CmdCode) (a : Addr) : headerAddr (c ++ a.extractLsb' 8 4) (a.extractLsb' 0 8) = a := by
  rw [headerAddr_eq_append, BitVec.extractLsb'_append_eq_right]
  exact BitVec.extractLsb'_append_extractLsb'_eq_extractLsb' rfl |>.trans BitVec.extractLsb'_eq_self

/-- Reading the header back gives the code and the address it was assembled from (R140). -/
theorem decodeHeader_of_hdr {c : CmdCode} {a : Addr} {h0 h1 : Byte} (h : hdr c a = [h0, h1]) :
    decodeHeader h0 h1 = (c, a) := by
  obtain ⟨rfl, rfl⟩ : c ++ a.extractLsb' 8 4 = h0 ∧ a.extractLsb' 0 8 = h1 := by simpa [hdr_eq_fields] using h
  rw [decodeHeader, headerCmd_append, headerAddr_fields]

/-- Every two bytes are the header of what is read from them (R140). -/
theorem hdr_decodeHeader (h0 h1 : Byte) : hdr (decodeHeader h0 h1).1 (decodeHeader h0 h1).2 = [h0, h1] := by
  have hhigh : (h0.extractLsb' 0 4 ++ h1).extractLsb' 8 4 = h0.extractLsb' 0 4 := BitVec.extractLsb'_append_eq_left
  have hlow : (h0.extractLsb' 0 4 ++ h1).extractLsb' 0 8 = h1 := BitVec.extractLsb'_append_eq_right
  have hbyte : h0.extractLsb' 4 4 ++ h0.extractLsb' 0 4 = h0 :=
    BitVec.extractLsb'_append_extractLsb'_eq_extractLsb' rfl |>.trans BitVec.extractLsb'_eq_self
  rw [hdr_eq_fields, decodeHeader, headerAddr_eq_append, hhigh, hlow, headerCmd, hbyte]

/-- Unpacking the bytes of a word gives the word (R85). -/
theorem unpack32_wordBytes (v : Word) :
    unpack32 (wordByte v 0) (wordByte v 1) (wordByte v 2) (wordByte v 3) = v := by
  have hhigh : v.extractLsb' 24 8 ++ v.extractLsb' 16 8 = v.extractLsb' 16 16 :=
    BitVec.extractLsb'_append_extractLsb'_eq_extractLsb' rfl
  have hmid : v.extractLsb' 16 16 ++ v.extractLsb' 8 8 = v.extractLsb' 8 24 :=
    BitVec.extractLsb'_append_extractLsb'_eq_extractLsb' rfl
  have hall : v.extractLsb' 8 24 ++ v.extractLsb' 0 8 = v.extractLsb' 0 32 :=
    BitVec.extractLsb'_append_extractLsb'_eq_extractLsb' rfl
  rw [unpack32_eq_append]
  simp only [wordByte_eq_extractLsb', Nat.mul_zero, Nat.mul_one, Nat.reduceMul, hhigh, hmid, hall]
  exact BitVec.extractLsb'_eq_self

/-- Packing the word of four bytes gives the bytes (R85). -/
theorem pack32_unpack32 (b0 b1 b2 b3 : Byte) : pack32 (unpack32 b0 b1 b2 b3) = [b0, b1, b2, b3] := by
  rw [pack32_eq_fields, unpack32_eq_append]
  congr
  · exact BitVec.extractLsb'_append_eq_right
  · rw [BitVec.extractLsb'_append_eq_of_le (by decide), BitVec.extractLsb'_append_eq_right]
  · rw [BitVec.extractLsb'_append_eq_of_le (by decide), BitVec.extractLsb'_append_eq_of_le (by decide),
      BitVec.extractLsb'_append_eq_right]
  · rw [BitVec.extractLsb'_append_eq_of_le (by decide), BitVec.extractLsb'_append_eq_of_le (by decide),
      BitVec.extractLsb'_append_eq_left]

/-- A concatenation as a number: its parts do not overlap. -/
theorem toNat_append_eq_add {m n : Nat} (x : BitVec m) (y : BitVec n) :
    (x ++ y).toNat = x.toNat * 2 ^ n + y.toNat := by
  rw [BitVec.toNat_append, ← Nat.shiftLeft_add_eq_or_of_lt y.isLt, Nat.shiftLeft_eq]

/-- The four parts of the word do not overlap, so they may be added (R85(c)). -/
theorem unpack32_eq_add (b0 b1 b2 b3 : Byte) : unpack32 b0 b1 b2 b3 =
    b0.setWidth 32 + (b1.setWidth 32 <<< 8) + (b2.setWidth 32 <<< 16) + (b3.setWidth 32 <<< 24) := by
  apply BitVec.eq_of_toNat_eq
  rw [unpack32_eq_append, BitVec.toNat_add, BitVec.toNat_add, BitVec.toNat_add,
    toNat_setWidth_shiftLeft b1 (by decide), toNat_setWidth_shiftLeft b2 (by decide),
    toNat_setWidth_shiftLeft b3 (by decide), BitVec.toNat_setWidth_of_le (by decide), Nat.shiftLeft_eq,
    Nat.shiftLeft_eq, Nat.shiftLeft_eq, toNat_append_eq_add, toNat_append_eq_add, toNat_append_eq_add]
  omega

/-- Settles O3. The inverse laws are those of the fields that packing takes and unpacking concatenates. -/
theorem assemblyFunctionsAreBijections : Obligations.AssemblyFunctionsAreBijections := by
  refine ⟨fun v => ⟨_, _, _, _, rfl, unpack32_wordBytes v⟩, pack32_unpack32, fun c a h0 h1 h => ?_,
    fun h0 h1 => ⟨_, _, hdr_decodeHeader h0 h1⟩, unpack32_eq_add⟩
  obtain ⟨hc, ha⟩ : headerCmd h0 = c ∧ headerAddr h0 h1 = a := by simpa [decodeHeader] using decodeHeader_of_hdr h
  refine ⟨?_, ha.symm⟩
  rw [← hc, headerCmd]
  exact BitVec.eq_of_toNat_eq (by simp)

/-- Settles O8. -/
theorem decodeHeaderInvertsHeader : Obligations.DecodeHeaderInvertsHeader := by
  refine ⟨fun h0 h1 => ?_, fun c a h0 h1 => decodeHeader_of_hdr, hdr_decodeHeader⟩
  rw [decodeHeader, headerCmd, headerAddr_eq_append]

/-- Settles O7. The indexed reading takes the same byte and bit as the list of all wire bits. -/
theorem wireBitsGoMostSignificantFirst : Obligations.WireBitsGoMostSignificantFirst := by
  refine fun f i j hj => ⟨?_, getElem?_wireBits f i j hj⟩
  rw [wireBit, show (8 * i + j) / 8 = i by omega, show (8 * i + j) % 8 = j by omega]

end Sys2Proof

/-! ## The frame decoder, one equation for each command code (R141) -/
namespace Sys2Proof

/-- Every frame with a header is that header and its payload (R80). -/
theorem eq_hdr_append {h0 h1 : Byte} {c : CmdCode} {a : Addr} (h : decodeHeader h0 h1 = (c, a)) (p : List Byte) :
    h0 :: h1 :: p = hdr c a ++ p := by
  have hh := hdr_decodeHeader h0 h1
  rw [h] at hh
  rw [show hdr c a = [h0, h1] from hh]
  rfl

/-- The two cases of a frame's beginning: no header, or the header of a code and an address. -/
theorem frame_cases (f : List Byte) : f.length < 2 ∨ ∃ c a p, f = hdr c a ++ p := by
  match f with
  | [] => exact .inl (by simp)
  | [_] => exact .inl (by simp)
  | h0 :: h1 :: p => exact .inr ⟨_, _, p, eq_hdr_append rfl p⟩

/-- The five classes of a command code (R87). -/
theorem cmdCode_cases : ∀ c : CmdCode, c = 0x0 ∨ c = 0x2 ∨ c = 0x3 ∨ (c = 0xA ∨ c = 0xB ∨ c = 0xC) ∨
    (c = 0x1 ∨ (0x4 ≤ c ∧ c ≤ 0x9) ∨ 0xD ≤ c) := by decide

theorem decodeFrame_short {f : List Byte} (h : f.length < 2) : decodeFrame f = .refused .noHeader := by
  match f, h with
  | [], _ => rfl
  | [_], _ => rfl

section
variable (a : Addr) (p : List Byte)

/-- The decoder sees the code and the address a header was assembled from. -/
theorem decodeFrame_hdr (c : CmdCode) : decodeFrame (hdr c a ++ p) =
    if c = 0x0#4 then if p = [] ∧ a = 0x000#12 then .ok .reset else .refused .malformedReset
    else if c = 0x2#4 then decodePayload (fun b0 b1 b2 b3 => .write a (unpack32 b0 b1 b2 b3)) p
    else if c = 0x3#4 then decodePayload (fun _ _ _ _ => .read a) p
    else if c = 0xA#4 ∨ c = 0xB#4 ∨ c = 0xC#4 then .refused .reservedCrcSafe
    else .refused .unknownCmd := by
  have hh : decodeHeader _ _ = (c, a) := decodeHeader_of_hdr (hdr_eq_fields c a)
  obtain ⟨hc, ha⟩ := Prod.mk.inj hh
  rw [hdr_eq_fields]
  simp only [List.cons_append, List.nil_append, decodeFrame, hc, ha]

theorem decodeFrame_reset_hdr : decodeFrame (hdr 0x0 a ++ p) =
    if p = [] ∧ a = 0x000#12 then .ok .reset else .refused .malformedReset := decodeFrame_hdr a p 0x0

theorem decodeFrame_write_hdr : decodeFrame (hdr 0x2 a ++ p) =
    decodePayload (fun b0 b1 b2 b3 => .write a (unpack32 b0 b1 b2 b3)) p := decodeFrame_hdr a p 0x2

theorem decodeFrame_read_hdr : decodeFrame (hdr 0x3 a ++ p) = decodePayload (fun _ _ _ _ => .read a) p :=
  decodeFrame_hdr a p 0x3

theorem decodeFrame_reserved_hdr {c : CmdCode} (hc : c = 0xA ∨ c = 0xB ∨ c = 0xC) :
    decodeFrame (hdr c a ++ p) = .refused .reservedCrcSafe := by
  rw [decodeFrame_hdr]
  rcases hc with rfl | rfl | rfl <;> rfl

theorem decodeFrame_unknown_hdr {c : CmdCode} (hc : c = 0x1 ∨ (0x4 ≤ c ∧ c ≤ 0x9) ∨ 0xD ≤ c) :
    decodeFrame (hdr c a ++ p) = .refused .unknownCmd := by
  have hnamed : c ≠ 0x0#4 ∧ c ≠ 0x2#4 ∧ c ≠ 0x3#4 ∧ ¬(c = 0xA#4 ∨ c = 0xB#4 ∨ c = 0xC#4) := by
    revert c
    decide
  obtain ⟨h0, h2, h3, hABC⟩ := hnamed
  rw [decodeFrame_hdr, if_neg h0, if_neg h2, if_neg h3, if_neg hABC]

end

/-! ## The payload of a WRITE or READ frame, by its length (R141) -/

section
variable (onWord : Byte → Byte → Byte → Byte → Instr)

theorem decodePayload_of_length_ne_four {p : List Byte} (h : p.length ≠ 4) : decodePayload onWord p =
    if 8 ≤ p.length ∧ p.length % 4 = 0 then .refused .multiWord else .refused .badLength := by
  unfold decodePayload
  split
  · simp at h
  · rfl

theorem decodePayload_multiWord {p : List Byte} {k : Nat} (hk : 2 ≤ k) (h : p.length = 4 * k) :
    decodePayload onWord p = .refused .multiWord := by
  rw [decodePayload_of_length_ne_four onWord (by omega), if_pos (by omega)]

theorem decodePayload_badLength {p : List Byte} (h : ∀ k, 1 ≤ k → p.length ≠ 4 * k) :
    decodePayload onWord p = .refused .badLength := by
  have h4 := h 1 (by omega)
  have hk := h (p.length / 4)
  rw [decodePayload_of_length_ne_four onWord h4, if_neg (by omega)]

/-- The three ends of a payload: one word, several words, or a bad length. -/
theorem decodePayload_cases (p : List Byte) :
    (∃ b0 b1 b2 b3, p = [b0, b1, b2, b3] ∧ decodePayload onWord p = .ok (onWord b0 b1 b2 b3)) ∨
    (8 ≤ p.length ∧ p.length % 4 = 0 ∧ decodePayload onWord p = .refused .multiWord) ∨
    (¬(4 ≤ p.length ∧ p.length % 4 = 0) ∧ decodePayload onWord p = .refused .badLength) := by
  by_cases h4 : p.length = 4
  · obtain ⟨b0, b1, b2, b3, rfl⟩ := List.length_eq_four.mp h4
    exact .inl ⟨b0, b1, b2, b3, rfl, rfl⟩
  · have hp := decodePayload_of_length_ne_four onWord h4
    by_cases h : 8 ≤ p.length ∧ p.length % 4 = 0
    · exact .inr (.inl ⟨h.1, h.2, by rw [hp, if_pos h]⟩)
    · exact .inr (.inr ⟨by omega, by rw [hp, if_neg h]⟩)

end

/-- Settles O9. Every frame with a header is that header and its payload, and each code has its own equation. -/
theorem decodeFrameTable : Obligations.DecodeFrameTable := by
  refine ⟨fun f => decodeFrame_short, fun h0 h1 p c a h => ?_⟩
  rw [eq_hdr_append h p]
  refine ⟨?_, ?_, ?_, ?_, ?_, ?_, decodeFrame_reserved_hdr a p, decodeFrame_unknown_hdr a p⟩
  · rintro rfl rfl rfl
    rw [decodeFrame_reset_hdr, if_pos ⟨rfl, rfl⟩]
  · rintro rfl h
    rw [decodeFrame_reset_hdr, if_neg (by tauto)]
  · rintro rfl b0 b1 b2 b3 rfl
    rw [decodeFrame_write_hdr, decodePayload]
  · rintro rfl h4
    obtain ⟨b0, b1, b2, b3, rfl⟩ := List.length_eq_four.mp h4
    rw [decodeFrame_read_hdr, decodePayload]
  · rintro (rfl | rfl) k hk hp
    · rw [decodeFrame_write_hdr, decodePayload_multiWord _ hk hp]
    · rw [decodeFrame_read_hdr, decodePayload_multiWord _ hk hp]
  · rintro (rfl | rfl) hp
    · rw [decodeFrame_write_hdr, decodePayload_badLength _ hp]
    · rw [decodeFrame_read_hdr, decodePayload_badLength _ hp]

/-! ## Decoding and encoding (R143) -/

theorem frameBytes_write (a : Addr) (v : Word) : frameBytes (.write a v) = hdr 0x2 a ++ pack32 v := rfl

theorem frameBytes_read (a : Addr) : frameBytes (.read a) = hdr 0x3 a ++ [0, 0, 0, 0] := rfl

/-- Decoding the frame of a command gives the command. -/
@[simp] theorem decodeFrame_frameBytes (i : Instr) : decodeFrame (frameBytes i) = .ok i := by
  cases i with
  | reset => rfl
  | write a v =>
    rw [frameBytes_write, decodeFrame_write_hdr]
    exact congrArg (Decoded.ok <| Instr.write a ·) (unpack32_wordBytes v)
  | read a => exact decodeFrame_read_hdr a _

/-- The frames the decoder reads: that of RESET, one word after the header of a WRITE, any four bytes after the
header of a READ. -/
theorem decodeFrame_ok {f : List Byte} {i : Instr} (h : decodeFrame f = .ok i) :
    (i = .reset ∧ f = frameBytes .reset) ∨ (∃ a v, i = .write a v ∧ f = frameBytes (.write a v)) ∨
    (∃ a p, i = .read a ∧ p.length = 4 ∧ f = hdr 0x3 a ++ p) := by
  obtain hf | ⟨c, a, p, rfl⟩ := frame_cases f
  · simp [decodeFrame_short hf] at h
  obtain rfl | rfl | rfl | hc | hc := cmdCode_cases c
  · rw [decodeFrame_reset_hdr] at h
    split at h
    · next hpa =>
      obtain ⟨rfl, rfl⟩ := hpa
      cases h
      exact .inl ⟨rfl, rfl⟩
    · cases h
  · rw [decodeFrame_write_hdr] at h
    obtain ⟨b0, b1, b2, b3, rfl, hp⟩ | ⟨-, -, hp⟩ | ⟨-, hp⟩ := decodePayload_cases _ p
    · rw [hp] at h
      cases h
      exact .inr (.inl ⟨a, _, rfl, by rw [frameBytes_write, pack32_unpack32]⟩)
    · simp [hp] at h
    · simp [hp] at h
  · rw [decodeFrame_read_hdr] at h
    obtain ⟨b0, b1, b2, b3, rfl, hp⟩ | ⟨-, -, hp⟩ | ⟨-, hp⟩ := decodePayload_cases _ p
    · rw [hp] at h
      cases h
      exact .inr (.inr ⟨a, _, rfl, rfl, rfl⟩)
    · simp [hp] at h
    · simp [hp] at h
  · simp [decodeFrame_reserved_hdr a p hc] at h
  · simp [decodeFrame_unknown_hdr a p hc] at h

/-- A frame of code 2 and one payload word is the frame of the WRITE of that word. -/
theorem exists_encode_write_iff (f : List Byte) : (∃ a v, encode (.write a v) = f) ↔
    ∃ h0 h1 p, f = h0 :: h1 :: p ∧ p.length = 4 ∧ headerCmd h0 = 0x2 := by
  constructor
  · rintro ⟨a, v, rfl⟩
    exact ⟨_, _, pack32 v, by rw [encode, frameBytes_write, hdr_eq_fields]; rfl, rfl, headerCmd_append _ _⟩
  · rintro ⟨h0, h1, p, rfl, hp, hc⟩
    obtain ⟨b0, b1, b2, b3, rfl⟩ := List.length_eq_four.mp hp
    refine ⟨headerAddr h0 h1, unpack32 b0 b1 b2 b3, ?_⟩
    rw [encode, frameBytes_write, pack32_unpack32, ← hc]
    exact (eq_hdr_append rfl _).symm

/-- A frame of code 3 and four zero bytes is the frame of a READ. -/
theorem exists_encode_read_iff (f : List Byte) : (∃ a, encode (.read a) = f) ↔
    ∃ h0 h1, f = [h0, h1, 0, 0, 0, 0] ∧ headerCmd h0 = 0x3 := by
  constructor
  · rintro ⟨a, rfl⟩
    exact ⟨_, _, by rw [encode, frameBytes_read, hdr_eq_fields]; rfl, headerCmd_append _ _⟩
  · rintro ⟨h0, h1, rfl, hc⟩
    refine ⟨headerAddr h0 h1, ?_⟩
    rw [encode, frameBytes_read, ← hc]
    exact (eq_hdr_append rfl _).symm

/-- Settles O10. That decoding inverts encoding makes the encoder injective; a decoded frame can differ from the
command's own only in the payload of a READ; and the image is read off format by format. -/
theorem decodeAndEncodeAgree : Obligations.DecodeAndEncodeAgree := by
  refine ⟨decodeFrame_frameBytes, fun i j hij => ?_, fun f i h => ?_, fun f => ?_⟩
  · have hdecoded : Decoded.ok i = .ok j := calc
      Decoded.ok i = decodeFrame (encode i) := (decodeFrame_frameBytes i).symm
      _ = decodeFrame (encode j) := congrArg decodeFrame hij
      _ = .ok j := decodeFrame_frameBytes j
    exact Decoded.ok.inj hdecoded
  · obtain ⟨rfl, rfl⟩ | ⟨a, v, rfl, rfl⟩ | ⟨a, p, rfl, hp, rfl⟩ := decodeFrame_ok h
    · exact .inl rfl
    · exact .inl rfl
    · by_cases hzero : p = [0, 0, 0, 0]
      · exact .inl (by rw [hzero]; rfl)
      · exact .inr ⟨a, _, _, p, rfl, rfl, hp, hzero, rfl⟩
  · rw [← exists_encode_write_iff, ← exists_encode_read_iff]
    constructor
    · rintro ⟨i, rfl⟩
      cases i with
      | reset => exact .inl rfl
      | write a v => exact .inr (.inl ⟨a, v, rfl⟩)
      | read a => exact .inr (.inr ⟨a, rfl⟩)
    · rintro (rfl | ⟨a, v, h⟩ | ⟨a, h⟩)
      · exact ⟨.reset, rfl⟩
      · exact ⟨_, h⟩
      · exact ⟨_, h⟩

end Sys2Proof

/-! ## Well-formed frames and the opcode table (R80, R90, R94) -/
namespace Sys2Proof

/-- The form of a frame with a header: the code, the address and the length. -/
theorem frameShape_hdr (c : CmdCode) (a : Addr) (p : List Byte) :
    frameShape (hdr c a ++ p) = some ⟨c, a, p.length + 2⟩ := by
  obtain ⟨hc, ha⟩ := Prod.mk.inj (show decodeHeader _ _ = (c, a) from decodeHeader_of_hdr (hdr_eq_fields c a))
  simp [hdr_eq_fields, frameShape, hc, ha]

theorem frameWf_short {f : List Byte} (h : f.length < 2) : frameWf f = false := by
  match f, h with
  | [], _ => rfl
  | [_], _ => rfl

/-- Which frames with a header the wire protocol describes (R80, R87, R90). -/
theorem frameWf_hdr (c : CmdCode) (a : Addr) (p : List Byte) : frameWf (hdr c a ++ p) = true ↔
    (c = 0x0 ∧ p = [] ∧ a = 0x000) ∨ ((c = 0x2 ∨ c = 0x3) ∧ 4 ≤ p.length ∧ p.length % 4 = 0) := by
  simp [frameWf, frameShape_hdr, FrameShape.wf, FrameShape.resetOk, FrameShape.payloadOk]

/-- Whether the decoder reads a command from a frame or refuses it as one of several words. -/
def ReadOrMultiWord (d : Decoded) : Prop := (∃ i, d = .ok i) ∨ d = .refused .multiWord

/-- A payload of a WRITE or READ is read or refused as several words exactly when it is whole words. -/
theorem readOrMultiWord_decodePayload (onWord : Byte → Byte → Byte → Byte → Instr) (p : List Byte) :
    ReadOrMultiWord (decodePayload onWord p) ↔ 4 ≤ p.length ∧ p.length % 4 = 0 := by
  obtain ⟨b0, b1, b2, b3, rfl, hp⟩ | ⟨h8, h4, hp⟩ | ⟨hlen, hp⟩ := decodePayload_cases onWord p
  · exact iff_of_true (.inl ⟨_, hp⟩) (by simp)
  · exact iff_of_true (.inr hp) ⟨by omega, h4⟩
  · simpa [ReadOrMultiWord, hp] using hlen

/-- A payload of words has four bytes for each. -/
theorem length_flatMap_pack32 (ws : List Word) : (ws.flatMap pack32).length = 4 * ws.length := by
  induction ws with
  | nil => rfl
  | cons v ws ih => simp [pack32, ih]; omega

/-- Settles O11, by the class of the command code. -/
theorem wellFormedFramesAreDecodedOrMultiWord : Obligations.WellFormedFramesAreDecodedOrMultiWord := by
  refine ⟨fun f => ?_, fun c a ws hc hws => ?_⟩
  · change frameWf f = true ↔ ReadOrMultiWord (decodeFrame f)
    obtain hf | ⟨c, a, p, rfl⟩ := frame_cases f
    · simp [frameWf_short hf, decodeFrame_short hf, ReadOrMultiWord]
    rw [frameWf_hdr]
    obtain rfl | rfl | rfl | hc | hc := cmdCode_cases c
    · rw [decodeFrame_reset_hdr]
      by_cases h : p = [] ∧ a = 0x000#12
      · rw [if_pos h]
        exact iff_of_true (.inl ⟨rfl, h⟩) (.inl ⟨_, rfl⟩)
      · rw [if_neg h]
        exact iff_of_false (by simpa using h) (by simp [ReadOrMultiWord])
    · rw [decodeFrame_write_hdr, readOrMultiWord_decodePayload]
      simp
    · rw [decodeFrame_read_hdr, readOrMultiWord_decodePayload]
      simp
    · have hne : ¬(c = 0x0 ∨ c = 0x2 ∨ c = 0x3) := by rcases hc with rfl | rfl | rfl <;> decide
      rw [decodeFrame_reserved_hdr a p hc]
      exact iff_of_false (by tauto) (by simp [ReadOrMultiWord])
    · have hne : ¬(c = 0x0 ∨ c = 0x2 ∨ c = 0x3) := by revert c; decide
      rw [decodeFrame_unknown_hdr a p hc]
      exact iff_of_false (by tauto) (by simp [ReadOrMultiWord])
  · have hlen := length_flatMap_pack32 ws
    rw [wireFormat]
    obtain rfl | rfl := hc
    · rw [decodeFrame_write_hdr, decodePayload_multiWord _ hws hlen]
    · rw [decodeFrame_read_hdr, decodePayload_multiWord _ hws hlen]

/-- The code and the address of a frame the decoder reads are those of the command. -/
theorem eq_of_decodeFrame_hdr_ok {c : CmdCode} {a : Addr} {p : List Byte} {i : Instr}
    (h : decodeFrame (hdr c a ++ p) = .ok i) : c = i.cmdCode ∧ a = i.addrOperand := by
  have hf : ∃ q, hdr c a ++ p = hdr i.cmdCode i.addrOperand ++ q := by
    obtain ⟨rfl, hf⟩ | ⟨b, v, rfl, hf⟩ | ⟨b, q, rfl, -, hf⟩ := decodeFrame_ok h
    · exact ⟨[], hf⟩
    · exact ⟨_, hf⟩
    · exact ⟨_, hf⟩
  obtain ⟨q, hf⟩ := hf
  have hshape := congrArg frameShape hf
  rw [frameShape_hdr, frameShape_hdr] at hshape
  obtain ⟨hc, ha, -⟩ := FrameShape.mk.inj (Option.some.inj hshape)
  exact ⟨hc, ha⟩

/-- The row of RESET selects the one header of code 0 and address 0. -/
theorem append_and_wholeMask (c : CmdCode) (a : Addr) :
    (c ++ a) &&& 0xFFFF#16 = 0x0000#16 ↔ c = 0x0 ∧ a = 0x000 := by
  have hcode : (c ++ a).extractLsb' 12 4 = c := BitVec.extractLsb'_append_eq_left
  have haddr : (c ++ a).extractLsb' 0 12 = a := BitVec.extractLsb'_append_eq_right
  rw [show 0xFFFF#16 = BitVec.allOnes 16 from rfl, BitVec.and_allOnes]
  constructor
  · intro h
    rw [h] at hcode haddr
    exact ⟨hcode.symm, haddr.symm⟩
  · rintro ⟨rfl, rfl⟩
    rfl

/-- The rows of WRITE and READ select by the command code alone. -/
theorem append_and_codeMask (c d : CmdCode) (a : Addr) : (c ++ a) &&& 0xF000#16 = d ++ 0x000#12 ↔ c = d := by
  have hmask : (c ++ a) &&& (BitVec.allOnes 4 ++ 0x000#12) = c ++ 0x000#12 := by
    rw [BitVec.and_append, BitVec.and_allOnes, BitVec.and_zero]
  rw [show 0xF000#16 = BitVec.allOnes 4 ++ 0x000#12 from rfl, hmask, BitVec.append_left_inj]

/-- The masks of all three rows cover the code, so a selected header has the code of the row's value. -/
theorem OpcodeRow.code_of_selects {r : OpcodeRow} (hr : r ∈ opcodeTable) {h : BitVec 16} (hs : r.selects h = true) :
    h &&& 0xF000#16 = r.value &&& 0xF000#16 := by
  have hmask : ∀ r ∈ opcodeTable, r.mask &&& 0xF000#16 = 0xF000#16 := by decide
  rw [← beq_iff_eq.mp hs, BitVec.and_assoc, hmask r hr]

/-- No two rows have the same code. -/
theorem eq_of_code_eq : ∀ r ∈ opcodeTable, ∀ q ∈ opcodeTable,
    r.value &&& 0xF000#16 = q.value &&& 0xF000#16 → r = q := by decide

/-- Settles O12. On `CMD :: ADDR` a row's mask and value say what the code, and for RESET the address, must be; the
decoder reads a command of that row from no other header. -/
theorem opcodeTableSelectsCommands : Obligations.OpcodeTableSelectsCommands := by
  refine ⟨fun h r q hr hq hsr hsq => eq_of_code_eq r hr q hq ?_, fun h0 h1 p r hr hp => ?_⟩
  · rw [← OpcodeRow.code_of_selects hr hsr, OpcodeRow.code_of_selects hq hsq]
  · obtain ⟨c, a, hca⟩ : ∃ c a, decodeHeader h0 h1 = (c, a) := ⟨_, _, rfl⟩
    have hh : hdr c a = [h0, h1] := by simpa [hca] using hdr_decodeHeader h0 h1
    rw [eq_hdr_append hca, headerWord_of_hdr hh]
    simp only [opcodeTable, List.mem_cons, List.not_mem_nil, or_false] at hr
    obtain rfl | rfl | rfl := hr
    · obtain rfl : p = [] := List.length_eq_zero_iff.mp (by simpa using hp)
      simp only [OpcodeRow.selects, beq_iff_eq, append_and_wholeMask]
      constructor
      · rintro ⟨rfl, rfl⟩
        exact ⟨.reset, rfl, rfl⟩
      · rintro ⟨i, hi, hm⟩
        have hca := eq_of_decodeFrame_hdr_ok hi
        cases i with
        | reset => exact hca
        | write => simp at hm
        | read => simp at hm
    · obtain ⟨b0, b1, b2, b3, rfl⟩ := List.length_eq_four.mp (show p.length = 4 by simpa using hp)
      simp only [OpcodeRow.selects, beq_iff_eq]
      rw [show 0x2000#16 = 0x2#4 ++ 0x000#12 from rfl, append_and_codeMask]
      constructor
      · rintro rfl
        exact ⟨_, decodeFrame_write_hdr a _, rfl⟩
      · rintro ⟨i, hi, hm⟩
        have hca := eq_of_decodeFrame_hdr_ok hi
        cases i with
        | reset => simp at hm
        | write => exact hca.1
        | read => simp at hm
    · obtain ⟨b0, b1, b2, b3, rfl⟩ := List.length_eq_four.mp (show p.length = 4 by simpa using hp)
      simp only [OpcodeRow.selects, beq_iff_eq]
      rw [show 0x3000#16 = 0x3#4 ++ 0x000#12 from rfl, append_and_codeMask]
      constructor
      · rintro rfl
        exact ⟨_, decodeFrame_read_hdr a _, rfl⟩
      · rintro ⟨i, hi, hm⟩
        have hca := eq_of_decodeFrame_hdr_ok hi
        cases i with
        | reset => simp at hm
        | write => simp at hm
        | read => exact hca.1

end Sys2Proof

/-! ## The two ends of a command: a short exchange and a whole one (R110, R120, R130, R192) -/
namespace Sys2Proof.Machine

/-- What a command leaves when its exchange `x` was short: `BUS_IO_ERR` is raised (R192). -/
def shortEnd (i : Instr) (x : Exchange) (s : State) : State := raiseBusIoErr (afterExchange (accept i s) x)

/-- What a command leaves when its exchange `x` was whole: chip-select rises, the device acts, the command completes
(R110, R120, R130). -/
def wholeEnd (i : Instr) (x : Exchange) (s : State) : State :=
  completion i (deviceCommit (releaseCs (afterExchange (accept i s) x)))

section
variable {i : Instr} {s : State} (hs : s.phase = .idle)
include hs

theorem exec_of_fault {f : Fault} (hf : (exchange (accept i s)).fault = some f) : exec i s = .fault f := by
  rw [exec_eq_transact, transact, if_pos hs]
  simp only [hf]

theorem exec_of_short (hf : (exchange (accept i s)).fault = none) (hx : (exchange (accept i s)).short = true) :
    exec i s = .next (shortEnd i (exchange (accept i s)) s) := by
  rw [exec_eq_transact, transact, if_pos hs]
  simp only [hf, hx, if_true, shortEnd]

theorem exec_of_whole (hf : (exchange (accept i s)).fault = none) (hx : (exchange (accept i s)).short = false) :
    exec i s = .next (wholeEnd i (exchange (accept i s)) s) := by
  rw [exec_eq_transact, transact, if_pos hs]
  simp only [hf, hx, Bool.false_eq_true, if_false, wholeEnd]

/-- THE ENDS OF A COMMAND of an idle block: the exchange stops the machine, was short, or was whole. -/
theorem exec_ends (i : Instr) :
    (∃ f, (exchange (accept i s)).fault = some f ∧ exec i s = .fault f) ∨
    ((exchange (accept i s)).fault = none ∧ (exchange (accept i s)).short = true ∧
      exec i s = .next (shortEnd i (exchange (accept i s)) s)) ∨
    ((exchange (accept i s)).fault = none ∧ (exchange (accept i s)).short = false ∧
      exec i s = .next (wholeEnd i (exchange (accept i s)) s)) := by
  rw [exec_eq_transact]
  exact transact_idle i (completion i) s hs

end

/-! ## The completion of a command, field by field -/

section
variable (i : Instr) (s : State)

@[simp] theorem completion_op : (completion i s).op = s.op := by cases i <;> rfl
@[simp] theorem completion_addr : (completion i s).addr = s.addr := by cases i <;> rfl
@[simp] theorem completion_wdata : (completion i s).wdata = s.wdata := by cases i <;> rfl
@[simp] theorem completion_tx : (completion i s).tx = s.tx := by cases i <;> rfl
@[simp] theorem completion_rx : (completion i s).rx = s.rx := by cases i <;> rfl
@[simp] theorem completion_len : (completion i s).len = s.len := by cases i <;> rfl
@[simp] theorem completion_idx : (completion i s).idx = s.idx := by cases i <;> rfl
@[simp] theorem completion_phase : (completion i s).phase = .idle := by cases i <;> rfl
@[simp] theorem completion_cs : (completion i s).cs = s.cs := by cases i <;> rfl
@[simp] theorem completion_status : (completion i s).status = .ok := by cases i <;> rfl
@[simp] theorem completion_completed : (completion i s).completed = some s.op := by cases i <;> rfl
@[simp] theorem completion_offers : (completion i s).offers = s.offers := by cases i <;> rfl
@[simp] theorem completion_device : (completion i s).device = s.device := by cases i <;> rfl
@[simp] theorem completion_mem : (completion i s).mem = s.mem := by cases i <;> rfl
@[simp] theorem completion_tape : (completion i s).tape = s.tape := by cases i <;> rfl

theorem completion_rdata (h : i.op ≠ .read) : (completion i s).rdata = s.rdata := by
  cases i with
  | reset => rfl
  | write => rfl
  | read => exact absurd rfl h

/-- How many free values a completion draws: a RESET's wait is one (R32). -/
def waitDraws : Instr → Nat
  | .reset => 1
  | .write _ _ => 0
  | .read _ => 0

@[simp] theorem completion_draws : (completion i s).draws = s.draws + waitDraws i := by cases i <;> rfl

/-- The waits after a command's exchange, where draw `d` is the next: one for RESET, none for the others (R110). -/
def waits (d : Nat) : Instr → List Nat
  | .reset => [Config.tResetSleepActual d]
  | .write _ _ => []
  | .read _ => []

theorem completion_wire_eq : (completion i s).wire = s.wire ++ (waits s.draws i).map .slept := by
  cases i <;> simp [completion, waits]

end

/-! ## Both ends, field by field -/

section
variable (i : Instr) (x : Exchange) (s : State)

@[simp] theorem shortEnd_op : (shortEnd i x s).op = i.op := rfl
@[simp] theorem shortEnd_addr : (shortEnd i x s).addr = i.addrOperand := rfl
@[simp] theorem shortEnd_len : (shortEnd i x s).len = BitVec.ofNat 3 (frameLen i) := rfl
@[simp] theorem shortEnd_idx : (shortEnd i x s).idx = BitVec.ofNat 3 x.rx.length := rfl
@[simp] theorem shortEnd_phase : (shortEnd i x s).phase = .idle := rfl
@[simp] theorem shortEnd_cs : (shortEnd i x s).cs = .released := rfl
@[simp] theorem shortEnd_status : (shortEnd i x s).status = .busIoErr := rfl
@[simp] theorem shortEnd_completed : (shortEnd i x s).completed = some i.op := rfl
@[simp] theorem shortEnd_rdata : (shortEnd i x s).rdata = s.rdata := rfl
@[simp] theorem shortEnd_wdata : (shortEnd i x s).wdata = i.wdataOperand s.wdata := rfl
@[simp] theorem shortEnd_tx : (shortEnd i x s).tx = s.tx.load 0 (frameBytes i) := rfl
@[simp] theorem shortEnd_rx : (shortEnd i x s).rx = s.rx.load 0 x.rx := rfl
@[simp] theorem shortEnd_offers : (shortEnd i x s).offers = s.offers := rfl
@[simp] theorem shortEnd_device : (shortEnd i x s).device = s.device.afterCut := rfl
@[simp] theorem shortEnd_mem : (shortEnd i x s).mem = s.mem := rfl
@[simp] theorem shortEnd_tape : (shortEnd i x s).tape = x.tape := rfl
@[simp] theorem shortEnd_draws : (shortEnd i x s).draws = x.draws := rfl
@[simp] theorem shortEnd_wire : (shortEnd i x s).wire =
    s.wire ++ transactionLog ((frameBytes i).take x.rx.length) [] := by
  simp [shortEnd, transactionLog]

@[simp] theorem wholeEnd_op : (wholeEnd i x s).op = i.op := by simp [wholeEnd]
@[simp] theorem wholeEnd_addr : (wholeEnd i x s).addr = i.addrOperand := by simp [wholeEnd]
@[simp] theorem wholeEnd_len : (wholeEnd i x s).len = BitVec.ofNat 3 (frameLen i) := by simp [wholeEnd]
@[simp] theorem wholeEnd_idx : (wholeEnd i x s).idx = BitVec.ofNat 3 x.rx.length := by simp [wholeEnd]
@[simp] theorem wholeEnd_phase : (wholeEnd i x s).phase = .idle := by simp [wholeEnd]
@[simp] theorem wholeEnd_cs : (wholeEnd i x s).cs = .released := by simp [wholeEnd]
@[simp] theorem wholeEnd_status : (wholeEnd i x s).status = .ok := by simp [wholeEnd]
@[simp] theorem wholeEnd_completed : (wholeEnd i x s).completed = some i.op := by simp [wholeEnd]
@[simp] theorem wholeEnd_wdata : (wholeEnd i x s).wdata = i.wdataOperand s.wdata := by simp [wholeEnd]
@[simp] theorem wholeEnd_tx : (wholeEnd i x s).tx = s.tx.load 0 (frameBytes i) := by simp [wholeEnd]
@[simp] theorem wholeEnd_rx : (wholeEnd i x s).rx = s.rx.load 0 x.rx := by simp [wholeEnd]
@[simp] theorem wholeEnd_offers : (wholeEnd i x s).offers = s.offers := by simp [wholeEnd]
@[simp] theorem wholeEnd_device : (wholeEnd i x s).device = s.device.afterFrame (frameBytes i) := by simp [wholeEnd]
@[simp] theorem wholeEnd_mem : (wholeEnd i x s).mem = s.device.contentsAfter s.mem (frameBytes i) := by
  simp [wholeEnd]
@[simp] theorem wholeEnd_tape : (wholeEnd i x s).tape = x.tape := by simp [wholeEnd]
@[simp] theorem wholeEnd_draws : (wholeEnd i x s).draws = x.draws + waitDraws i := by simp [wholeEnd]
@[simp] theorem wholeEnd_wire : (wholeEnd i x s).wire =
    s.wire ++ transactionLog ((frameBytes i).take x.rx.length) (waits x.draws i) := by
  simp [wholeEnd, completion_wire_eq, transactionLog]

theorem wholeEnd_rdata (h : i.op ≠ .read) : (wholeEnd i x s).rdata = s.rdata := by
  rw [wholeEnd, completion_rdata _ _ h]
  rfl

/-- A READ loads `RDATA` from the captured bytes 2 to 5 (R120). -/
theorem wholeEnd_read_rdata (a : Addr) (b0 b1 b2 b3 b4 b5 : Byte) (h : x.rx = [b0, b1, b2, b3, b4, b5]) :
    (wholeEnd (.read a) x s).rdata = unpack32 b2 b3 b4 b5 := by
  have hrx : (wholeEnd (.read a) x s).rdata = unpack32 (s.rx.load 0 x.rx).b2 (s.rx.load 0 x.rx).b3
    (s.rx.load 0 x.rx).b4 (s.rx.load 0 x.rx).b5 := rfl
  rw [hrx, h]
  rfl

/-- After `BUS_IO_ERR` the host gets that status and no word (R191, C4). -/
@[simp] theorem shortEnd_hostResult : (shortEnd i x s).hostResult = some (.busIoErr, none) := by
  simp [State.hostResult, State.rdataValid]

/-- After a READ with `OK` the host gets `RDATA` (R120, C4). -/
theorem wholeEnd_read_hostResult (a : Addr) :
    (wholeEnd (.read a) x s).hostResult = some (.ok, some (wholeEnd (.read a) x s).rdata) := by
  simp [State.hostResult, State.rdataValid, Instr.op]

/-- After another command with `OK` the host gets the status alone (C4). -/
theorem wholeEnd_hostResult (h : i.op ≠ .read) : (wholeEnd i x s).hostResult = some (.ok, none) := by
  simp [State.hostResult, State.rdataValid, h]

end

/-- The exchange of a command is that of its frame, from the first byte on (R34). -/
theorem exchange_accept (i : Instr) (s : State) : exchange (accept i s) =
    exchangeFrom s.device s.mem (frameBytes i) (frameLen i) 0 s.tape s.draws := by
  simp [exchange]

/-- What a command answers with a next state is one of its two ends; the exchange was short or captured the whole
frame. -/
theorem exec_next {i : Instr} {s t : State} (hs : s.phase = .idle) (h : exec i s = .next t) :
    ∃ x, x = exchange (accept i s) ∧
      ((x.rx.length < frameLen i ∧ t = shortEnd i x s) ∨ (x.rx.length = frameLen i ∧ t = wholeEnd i x s)) := by
  have hends := exec_ends hs i
  rw [exchange_accept] at hends ⊢
  refine ⟨_, rfl, ?_⟩
  obtain ⟨f, -, hx⟩ | ⟨hf, hshort, hx⟩ | ⟨hf, hshort, hx⟩ := hends
  · rw [hx] at h
    cases h
  · rw [hx] at h
    cases h
    exact .inl ⟨(exchangeFrom_length _ _ _ _ _ _ _ hf).2 hshort, rfl⟩
  · rw [hx] at h
    cases h
    exact .inr ⟨(exchangeFrom_length _ _ _ _ _ _ _ hf).1 hshort, rfl⟩

/-- No command of an idle block is refused (R89). -/
theorem exec_ne_refused (i : Instr) {s : State} (hs : s.phase = .idle) (r : Refusal) : exec i s ≠ .refused r := by
  obtain ⟨f, -, hx⟩ | ⟨-, -, hx⟩ | ⟨-, -, hx⟩ := exec_ends hs i <;> simp [hx]

/-! ## No command depends on what an earlier one left (C11) -/

/-- The exchange of a command depends on the environment alone. -/
theorem exchange_accept_eq (i : Instr) {s t : State} (h : SameEnvironment s t) :
    exchange (accept i s) = exchange (accept i t) := by
  obtain ⟨hd, hm, ht, hdr⟩ := h
  rw [exchange_accept, exchange_accept, hd, hm, ht, hdr]

theorem shortEnd_sameEnvironment (i : Instr) (x : Exchange) {s t : State} (h : SameEnvironment s t) :
    SameEnvironment (shortEnd i x s) (shortEnd i x t) := by
  obtain ⟨hd, hm, -, -⟩ := h
  exact ⟨by simp [hd], by simp [hm], by simp, by simp⟩

theorem wholeEnd_sameEnvironment (i : Instr) (x : Exchange) {s t : State} (h : SameEnvironment s t) :
    SameEnvironment (wholeEnd i x s) (wholeEnd i x t) := by
  obtain ⟨hd, hm, -, -⟩ := h
  exact ⟨by simp [hd], by simp [hd, hm], by simp, by simp⟩

/-- A list of six bytes is those six bytes. -/
theorem eq_six_of_length {xs : List Byte} (h : xs.length = 6) :
    ∃ b0 b1 b2 b3 b4 b5, xs = [b0, b1, b2, b3, b4, b5] := by
  match xs, h with
  | [b0, b1, b2, b3, b4, b5], _ => exact ⟨b0, b1, b2, b3, b4, b5, rfl⟩

/-- A READ's whole exchange fills the payload part of `RX`, so its result does not depend on what `RX` held. -/
theorem wholeEnd_hostResult_eq (i : Instr) (x : Exchange) (s t : State) (hx : x.rx.length = frameLen i) :
    (wholeEnd i x s).hostResult = (wholeEnd i x t).hostResult := by
  cases i with
  | reset => rw [wholeEnd_hostResult _ _ _ (by decide), wholeEnd_hostResult _ _ _ (by decide)]
  | write => rw [wholeEnd_hostResult _ _ _ (by simp [Instr.op]), wholeEnd_hostResult _ _ _ (by simp [Instr.op])]
  | read a =>
    obtain ⟨b0, b1, b2, b3, b4, b5, hrx⟩ := eq_six_of_length hx
    rw [wholeEnd_read_hostResult, wholeEnd_read_hostResult, wholeEnd_read_rdata x s a _ _ _ _ _ _ hrx,
      wholeEnd_read_rdata x t a _ _ _ _ _ _ hrx]

/-- Settles O26. The exchange is the same for both blocks, and each of a command's ends takes from the block only what
`SameEnvironment` shares. -/
theorem noCommandDependsOnAnEarlierOne : Obligations.NoCommandDependsOnAnEarlierOne := by
  intro i s t hs ht henv
  have hex := exchange_accept_eq i henv
  constructor
  · intro f
    obtain ⟨e, hf, hx⟩ | ⟨hf, hshort, hx⟩ | ⟨hf, hshort, hx⟩ := exec_ends hs i
    · rw [hx, exec_of_fault ht (hex ▸ hf)]
    · rw [hx, exec_of_short ht (hex ▸ hf) (hex ▸ hshort)]
      simp
    · rw [hx, exec_of_whole ht (hex ▸ hf) (hex ▸ hshort)]
      simp
  · intro s' t' h h'
    obtain ⟨x, rfl, ⟨hlen, rfl⟩ | ⟨hlen, rfl⟩⟩ := exec_next hs h <;>
      obtain ⟨y, rfl, ⟨hlen', rfl⟩ | ⟨hlen', rfl⟩⟩ := exec_next ht h'
    · rw [hex]
      exact ⟨by simp, shortEnd_sameEnvironment i _ henv, _, shortEnd_wire .., shortEnd_wire ..⟩
    · rw [hex] at hlen
      omega
    · rw [hex] at hlen
      omega
    · rw [hex]
      exact ⟨wholeEnd_hostResult_eq i _ s t hlen', wholeEnd_sameEnvironment i _ henv, _, wholeEnd_wire ..,
        wholeEnd_wire ..⟩

end Sys2Proof.Machine

/-! ## The invariant (R28, R29, R31, R34, R35) -/
namespace Sys2Proof.Machine

/-- In `IDLE` and `SLEEP` the invariant says nothing of a frame in flight. -/
theorem State.inv_of_released {s : State} (hmem : s.mem.wf = true) (hp : s.phase ≠ .xfer) (hcs : s.cs = .released)
    (hwire : wireLevel .released s.wire = some .released) (hsleep : s.phase = .sleep → s.op = .reset) : s.Inv :=
  ⟨hmem, by simp [hcs, hp], by rw [hwire, hcs], fun h => absurd h hp, hsleep⟩

theorem State.Inv.cs_released {s : State} (h : s.Inv) (hp : s.phase ≠ .xfer) : s.cs = .released := by
  obtain ⟨-, hcs, -⟩ := h
  cases hc : s.cs with
  | released => rfl
  | asserted => exact absurd (hcs.mp hc) hp

theorem State.Inv.wire_released {s : State} (h : s.Inv) (hp : s.phase ≠ .xfer) :
    wireLevel .released s.wire = some .released := by
  have hcs := h.cs_released hp
  obtain ⟨-, -, hwire, -⟩ := h
  rw [hwire, hcs]

/-- In `XFER` the line is low. -/
theorem State.Inv.wire_asserted {s : State} (h : s.Inv) (hp : s.phase = .xfer) :
    wireLevel .released s.wire = some .asserted := by
  obtain ⟨-, hcs, hwire, -⟩ := h
  rw [hwire, hcs.mpr hp]

/-- The host's presenting of other commands is no part of the invariant. -/
theorem State.Inv.with_offers {s : State} (h : s.Inv) (os : List Instr) : State.Inv { s with offers := os } := h

/-- Settles O37. -/
theorem resetMeetsInvariant : Obligations.ResetMeetsInvariant :=
  State.inv_of_released reset_mem_wf (by decide) rfl rfl (by decide)

/-! ### A whole command -/

theorem wireLevel_bytes (bs : List Byte) (w : List WireEvent) :
    wireLevel .asserted (bs.map .byte ++ w) = wireLevel .asserted w := by
  induction bs with
  | nil => rfl
  | cons b bs ih => exact ih

theorem wireLevel_sleeps (ms : List Nat) : wireLevel .released (ms.map .slept) = some .released := by
  induction ms with
  | nil => rfl
  | cons m ms ih => exact ih

/-- One transaction takes a released line to a released line (R35). -/
theorem wireLevel_transactionLog (bs : List Byte) (ms : List Nat) :
    wireLevel .released (transactionLog bs ms) = some .released := by
  have hbytes := wireLevel_bytes bs (.csHigh :: ms.map .slept)
  simpa [transactionLog, wireLevel, wireLevel_sleeps] using hbytes

/-- After a command that an idle block took it is idle again, with chip-select released (R30, R31, R32). -/
theorem exec_released {i : Instr} {s t : State} (hs : s.phase = .idle) (h : exec i s = .next t) :
    t.phase = .idle ∧ t.cs = .released := by
  obtain ⟨x, -, ⟨-, rfl⟩ | ⟨-, rfl⟩⟩ := exec_next hs h
  · exact ⟨rfl, rfl⟩
  · exact ⟨wholeEnd_phase .., wholeEnd_cs ..⟩

/-- A command keeps the canonical form of the memory (R151, R153). -/
theorem exec_mem_wf {i : Instr} {s t : State} (hs : s.phase = .idle) (h : exec i s = .next t)
    (hmem : s.mem.wf = true) : t.mem.wf = true := by
  obtain ⟨x, -, ⟨-, rfl⟩ | ⟨-, rfl⟩⟩ := exec_next hs h
  · exact hmem
  · rw [wholeEnd_mem]
    exact Device.contentsAfter_wf _ _ _ hmem

/-- A command keeps the invariant. -/
theorem exec_inv {i : Instr} {s t : State} (hs : s.phase = .idle) (hinv : s.Inv) (h : exec i s = .next t) :
    t.Inv := by
  obtain ⟨hp, hcs⟩ := exec_released hs h
  obtain ⟨n, ms, hw⟩ := exec_wire hs h
  refine State.inv_of_released (exec_mem_wf hs h hinv.1) (by simp [hp]) hcs ?_ (by simp [hp])
  rw [hw, wireLevel_append, hinv.wire_released (by simp [hs])]
  exact wireLevel_transactionLog _ ms

/-! ### The small steps -/

@[simp] theorem microFinish_mem (s : State) : (microFinish s).mem = s.device.contentsAfter s.mem s.frame := by
  unfold microFinish; split <;> rfl

@[simp] theorem microFinish_op (s : State) : (microFinish s).op = s.op := by
  unfold microFinish; split <;> rfl

@[simp] theorem microWake_mem (s : State) : (microWake s).mem = s.mem := rfl

/-- Only a RESET goes to sleep (R31). -/
theorem microFinish_sleep {s : State} (h : (microFinish s).phase = .sleep) : s.op = .reset := by
  unfold microFinish at h
  split at h
  · cases h
  · cases h
  · assumption

/-- The index of a byte still to come advances without wrapping (R29). -/
theorem idx_succ_toNat {s : State} (h : s.idx < s.len) : (s.idx + 1).toNat = s.idx.toNat + 1 := by
  have := s.len.isLt
  bv_omega

theorem frameLen_le_six (i : Instr) : frameLen i ≤ 6 := by
  cases i <;> simp [frameLen]

/-- `accept` begins a frame (R28). -/
theorem accept_inv (i : Instr) {s : State} (hs : s.phase = .idle) (h : s.Inv) : (accept i s).Inv := by
  refine ⟨h.1, by simp, ?_, fun _ => ?_, by simp⟩
  · rw [accept_wire, wireLevel_append, h.wire_released (by simp [hs])]
    rfl
  · simp [openFrame_append, openFrame]

/-- `byte` adds the next byte of the frame to those taken (R29). -/
theorem moveByte_inv {s : State} {sent : Byte} (c : Byte) (hp : s.phase = .xfer) (hi : s.idx < s.len)
    (hsent : s.tx.byte? s.idx.toNat = some sent) (h : s.Inv) : (moveByte sent c s).Inv := by
  have hlow := h.wire_asserted hp
  obtain ⟨hmem, hcs, -, hxfer, -⟩ := h
  obtain ⟨hlen, -, hframe, htaken⟩ := hxfer hp
  have hlt : s.idx.toNat < s.len.toNat := hi
  have hnext : s.frame[s.idx.toNat]? = some sent :=
    State.frame_getElem? s _ (hlen ▸ frameLen_le_six _) hlt sent hsent
  refine ⟨hmem, hcs, ?_, fun _ => ⟨hlen, ?_, hframe, ?_⟩, by simp [hp]⟩
  · rw [moveByte_wire, wireLevel_append, hlow, moveByte_cs, hcs.mpr hp]
    rfl
  · rw [moveByte_idx, moveByte_len, idx_succ_toNat hi]
    exact hlt
  · rw [moveByte_wire, openFrame_append, htaken, moveByte_frame, moveByte_idx, idx_succ_toNat hi, List.take_add_one,
      hnext]
    rfl

/-- `short` releases the line (R30). -/
theorem raiseBusIoErr_inv {s : State} (hp : s.phase = .xfer) (h : s.Inv) : (raiseBusIoErr s).Inv := by
  refine State.inv_of_released h.1 (by simp) rfl ?_ (by simp)
  rw [raiseBusIoErr_wire, wireLevel_append, h.wire_asserted hp]
  rfl

/-- `finish` releases the line (R31). -/
theorem microFinish_inv {s : State} (hp : s.phase = .xfer) (h : s.Inv) : (microFinish s).Inv := by
  refine State.inv_of_released ?_ (microFinish_phase_ne_xfer s) (microFinish_cs s) ?_
    fun hsleep => (microFinish_op s).trans (microFinish_sleep hsleep)
  · rw [microFinish_mem]
    exact Device.contentsAfter_wf _ _ _ h.1
  · rw [microFinish_wire, wireLevel_append, h.wire_asserted hp]
    rfl

/-- `wake` leaves a released line released (R32). -/
theorem microWake_inv {s : State} (hp : s.phase = .sleep) (h : s.Inv) : (microWake s).Inv := by
  refine State.inv_of_released h.1 (by simp) (h.cs_released (by simp [hp])) ?_ (by simp)
  rw [microWake_wire, wireLevel_append, h.wire_released (by simp [hp])]
  rfl

/-- Settles O39, step by step of R28 to R32. -/
theorem smallStepKeepsInvariant : Obligations.SmallStepKeepsInvariant := by
  intro s t hinv h
  cases SmallStep.of_microStep h with
  | wait => exact hinv
  | accept i rest hp _ => exact accept_inv i hp (hinv.with_offers rest)
  | byte sent b c tape draws hp hi hsent _ => exact moveByte_inv (s := { s with tape, draws }) c hp hi hsent hinv
  | short tape draws hp _ => exact raiseBusIoErr_inv (s := { s with tape, draws }) hp hinv
  | finish hp _ => exact microFinish_inv hp hinv
  | wake hp => exact microWake_inv hp hinv

/-! ### A step of the machine -/

theorem step_offered {s : State} {i : Instr} {rest : List Instr} (hs : s.phase = .idle) (ho : s.offers = i :: rest) :
    step s = exec i { s with offers := rest } := by
  simp only [step, hs, fetch, ho]

theorem step_waits {s : State} (hs : s.phase = .idle) (ho : s.offers = []) : step s = .next s := by
  simp only [step, hs, fetch, ho]

theorem step_busy {s : State} (hs : s.phase ≠ .idle) : step s = microStep s := by
  unfold step
  split
  · contradiction
  · rfl
  · rfl

/-- Settles O38. A step is a whole command of an idle block, a wait, or a small step. -/
theorem stepKeepsInvariant : Obligations.StepKeepsInvariant := by
  intro s t hinv h
  by_cases hs : s.phase = .idle
  · cases ho : s.offers with
    | nil =>
      rw [step_waits hs ho] at h
      cases h
      exact hinv
    | cons i rest =>
      rw [step_offered hs ho] at h
      exact exec_inv (s := { s with offers := rest }) hs (hinv.with_offers rest) h
  · rw [step_busy hs] at h
    exact smallStepKeepsInvariant s t hinv h

/-! ### What stops the block (R36, R150, U16) -/

/-- For the frame of a command the device is without an answer only where a READ's word has no value (R150). -/
theorem deviceByte_frameBytes_error {d : Device} {m : Memory} {i : Instr} {k : Nat} {b : Byte} {f : Fault}
    (h : deviceByte d m (frameBytes i) k b = .error f) :
    ∃ a, i = .read a ∧ d = .reference ∧ m.read32 a = none ∧ 2 ≤ k ∧ f = .noDeviceValue a := by
  unfold deviceByte at h
  split at h
  · cases h
  · rw [decodeFrame_frameBytes] at h
    cases i with
    | reset => cases h
    | write => cases h
    | read a =>
      dsimp only at h
      split at h
      · cases h
      · split at h
        · cases h
        · next hk hm =>
          cases h
          exact ⟨a, rfl, rfl, hm, by omega, rfl⟩
  · rw [decodeFrame_frameBytes] at h
    cases i with
    | reset => cases h
    | write => cases h
    | read a =>
      dsimp only at h
      split at h <;> cases h

/-- An exchange stops the machine only where the bus primitive never returns or the device has no answer. -/
theorem exchangeFrom_fault (d : Device) (m : Memory) (f : List Byte) (n k : Nat) (tape : List BusEvent) (draws : Nat)
    (e : Fault) (h : (exchangeFrom d m f n k tape draws).fault = some e) :
    e = .busHung ∨ ∃ k b, deviceByte d m f k b = .error e := by
  induction n generalizing k tape draws with
  | zero => simp [exchangeFrom] at h
  | succ n ih =>
    match tape with
    | .cut :: tape => simp [exchangeFrom] at h
    | .hang :: tape => exact .inl (by simpa [exchangeFrom] using h.symm)
    | .moved b :: tape =>
      simp only [exchangeFrom] at h
      split at h
      · next e' he => exact .inr ⟨k, b, by simpa [he] using h⟩
      · exact ih (k + 1) tape draws h
    | [] =>
      cases d with
      | oracle => exact .inl (exchangeFrom_oracle_fault m f (n + 1) k [] draws e h)
      | reference =>
        simp only [exchangeFrom] at h
        split at h
        · next e' he => exact .inr ⟨k, Config.freeByte draws, by simpa [he] using h⟩
        · exact ih (k + 1) [] (draws + 1) h
      | unknown =>
        simp only [exchangeFrom] at h
        split at h
        · next e' he => exact .inr ⟨k, Config.freeByte draws, by simpa [he] using h⟩
        · exact ih (k + 1) [] (draws + 1) h

/-- A command of an idle block stops only with `busHung` or `noDeviceValue` (R36, R150). -/
theorem exec_fault {i : Instr} {s : State} {f : Fault} (hs : s.phase = .idle) (h : exec i s = .fault f) :
    f = .busHung ∨ ∃ a, f = .noDeviceValue a := by
  obtain ⟨e, he, hx⟩ | ⟨-, -, hx⟩ | ⟨-, -, hx⟩ := exec_ends hs i
  · rw [hx] at h
    cases h
    rw [exchange_accept] at he
    obtain hhung | ⟨k, b, hb⟩ := exchangeFrom_fault _ _ _ _ _ _ _ _ he
    · exact .inl hhung
    · obtain ⟨a, -, -, -, -, ha⟩ := deviceByte_frameBytes_error hb
      exact .inr ⟨a, ha⟩
  · rw [hx] at h
    cases h
  · rw [hx] at h
    cases h

/-- A small step stops with the device's own fault, if it has no answer. -/
theorem microAnswer_stops {sent b : Byte} {s : State} {o : Host.Outcome State Fault Refusal}
    (h : microAnswer sent b s = o) : (∃ t, o = .next t) ∨
    ∃ f, o = .fault f ∧ deviceByte s.device s.mem s.frame s.idx.toNat b = .error f := by
  unfold microAnswer at h
  split at h
  · next f hf => exact .inr ⟨f, h.symm, hf⟩
  · exact .inl ⟨_, h.symm⟩

/-- In `XFER` with a byte to come the block goes on, hangs, or stops with the device's own fault. -/
theorem microByte_stops {s : State} {sent : Byte} (hsent : s.tx.byte? s.idx.toNat = some sent)
    {o : Host.Outcome State Fault Refusal} (h : microByte s = o) : (∃ t, o = .next t) ∨ o = .fault .busHung ∨
    ∃ f b, o = .fault f ∧ deviceByte s.device s.mem s.frame s.idx.toNat b = .error f := by
  have answered {b : Byte} {tape : List BusEvent} {draws : Nat}
      (h : microAnswer sent b { s with tape := tape, draws := draws } = o) :
      (∃ t, o = .next t) ∨ o = .fault .busHung ∨
        ∃ f b, o = .fault f ∧ deviceByte s.device s.mem s.frame s.idx.toNat b = .error f :=
    (microAnswer_stops h).imp_right fun ⟨f, ho, hf⟩ => .inr ⟨f, b, ho, hf⟩
  unfold microByte at h
  rw [hsent] at h
  dsimp only at h
  split at h
  · exact .inl ⟨_, h.symm⟩
  · exact .inr (.inl h.symm)
  · exact answered h
  · split at h
    · exact .inl ⟨_, h.symm⟩
    · exact answered h
    · exact answered h

/-- Under the invariant the transaction machine always has a step; only the environment stops it. -/
theorem microStep_stops {s : State} (hinv : s.Inv) :
    (∃ t, microStep s = .next t) ∨ microStep s = .fault .busHung ∨
      ∃ a, microStep s = .fault (.noDeviceValue a) := by
  cases hp : s.phase with
  | idle =>
    simp only [microStep, hp]
    split <;> exact .inl ⟨_, rfl⟩
  | sleep => exact .inl ⟨_, microStep_sleep s hp⟩
  | xfer =>
    obtain ⟨-, -, -, hxfer, -⟩ := hinv
    obtain ⟨hlen, hle, hframe, -⟩ := hxfer hp
    by_cases hi : s.idx = s.len
    · exact .inl ⟨_, microStep_finish s hp hi⟩
    · have hlt : s.idx < s.len := by bv_omega
      have hidx : s.idx.toNat < s.len.toNat := hlt
      obtain ⟨sent, hsent⟩ := Buf.byte?_some s.tx s.idx.toNat
        (Nat.lt_of_lt_of_le hidx (hlen ▸ frameLen_le_six _))
      rw [microStep_byte s hp hlt]
      obtain hnext | hhung | ⟨f, b, hf, hb⟩ := microByte_stops hsent rfl
      · exact .inl hnext
      · exact .inr (.inl hhung)
      · rw [hframe] at hb
        obtain ⟨a, -, -, -, -, rfl⟩ := deviceByte_frameBytes_error hb
        exact .inr (.inr ⟨a, hf⟩)

/-- Settles O40. A step of an idle block is a whole command, any other is a small step; neither stops but for the
environment. -/
theorem onlyTheEnvironmentStopsTheBlock : Obligations.OnlyTheEnvironmentStopsTheBlock := by
  intro s hinv
  have hmicro : (∀ r, microStep s ≠ .refused r) ∧
      ∀ f, microStep s = .fault f → f = .busHung ∨ ∃ a, f = .noDeviceValue a := by
    obtain ⟨t, h⟩ | h | ⟨a, h⟩ := microStep_stops hinv <;> simp [h]
  have hstep : (∀ r, step s ≠ .refused r) ∧
      ∀ f, step s = .fault f → f = .busHung ∨ ∃ a, f = .noDeviceValue a := by
    by_cases hs : s.phase = .idle
    · cases ho : s.offers with
      | nil => simp [step_waits hs ho]
      | cons i rest =>
        rw [step_offered hs ho]
        exact ⟨exec_ne_refused i (s := { s with offers := rest }) hs, fun f => exec_fault hs⟩
    · rw [step_busy hs]
      exact hmicro
  exact ⟨fun r => ⟨hstep.1 r, hmicro.1 r⟩, fun f h => h.elim (hstep.2 f) (hmicro.2 f)⟩

end Sys2Proof.Machine

/-! ## A command in each environment: all bytes exchanged, a cut, a hang, no value (R33, R36, R150) -/
namespace Sys2Proof.Machine

/-- The exchange of command `i` when the environment moves all its bytes. -/
def movedExchange (i : Instr) (s : State) : Exchange where
  fault := none
  short := false
  rx := (List.range (frameLen i)).map (s.answer i)
  tape := s.tape.drop (frameLen i)
  draws := s.draws + (frameLen i - s.tape.length)

/-- The exchange of command `i` when the environment cuts it at byte `n`. -/
def cutExchange (i : Instr) (n : Nat) (s : State) : Exchange where
  fault := none
  short := true
  rx := (List.range n).map (s.answer i)
  tape := s.tape.drop (n + 1)
  draws := s.draws + (n + 1 - s.tape.length)

/-- The reference device has a value for every command but a READ of a word without one. -/
theorem State.answers_or (s : State) (i : Instr) :
    s.answers i ∨ ∃ a, i = .read a ∧ s.device = .reference ∧ s.mem.read32 a = none := by
  by_cases h : s.answers i
  · exact .inl h
  · unfold State.answers at h
    push Not at h
    obtain ⟨a, hi, hd, hm⟩ := h
    exact .inr ⟨a, hi, hd, hm⟩

/-- The device answers byte `k` of a command's frame with `State.answer`: it has a value, or the byte is in the
header (R121, R152). -/
theorem deviceByte_answer {s : State} {i : Instr} {k : Nat} (h : s.answers i ∨ k < 2) :
    deviceByte s.device s.mem (frameBytes i) k (s.choice k) = .ok (s.answer i k) := by
  cases hd : s.device with
  | oracle => simp only [deviceByte, State.answer, hd]
  | reference =>
    cases i with
    | reset => simp [deviceByte, State.answer, hd]
    | write => simp [deviceByte, State.answer, hd]
    | read a =>
      simp only [deviceByte, decodeFrame_frameBytes, State.answer, hd]
      cases hm : s.mem.read32 a with
      | some w => split <;> rfl
      | none =>
        have hk : k < 2 := h.resolve_left fun ha => ha a rfl hd hm
        rw [if_pos hk]
        rfl
  | unknown =>
    cases i with
    | reset => simp [deviceByte, State.answer, hd]
    | write => simp [deviceByte, State.answer, hd]
    | read a =>
      simp only [deviceByte, decodeFrame_frameBytes, State.answer, hd]
      split <;> rfl

section
variable {s : State} {i : Instr} {n : Nat}

/-- While the environment moves the first `n` bytes, they are answered with `State.answer`. -/
theorem exchange_of_prefix {r : Nat} (hm : s.moves n) (hn : n + r = frameLen i) (ha : s.answers i ∨ n ≤ 2) :
    exchange (accept i s) = (exchangeFrom s.device s.mem (frameBytes i) r n (s.tape.drop n)
      (s.draws + (n - s.tape.length))).prepend ((List.range n).map (s.answer i)) := by
  rw [exchange_accept, ← hn, exchangeFrom_prefix s.device s.mem (frameBytes i) n r 0 s.tape s.draws (s.answer i) hm,
    Nat.zero_add]
  intro k hk
  rw [Nat.zero_add]
  exact deviceByte_answer (ha.imp_right fun h => by omega)

theorem exchange_of_moves (hm : s.moves (frameLen i)) (ha : s.answers i) :
    exchange (accept i s) = movedExchange i s := by
  rw [exchange_of_prefix (r := 0) hm rfl (.inl ha)]
  simp [exchangeFrom, Exchange.prepend, movedExchange]

theorem exchange_of_cutsAt (hn : n < frameLen i) (hc : s.cutsAt n) (ha : s.answers i ∨ n ≤ 2) :
    exchange (accept i s) = cutExchange i n s := by
  obtain ⟨hm, hcut⟩ := hc
  rw [exchange_of_prefix (r := frameLen i - n - 1 + 1) hm (by omega) ha]
  obtain hcut | ⟨hnone, hd, hcut⟩ := hcut
  · obtain ⟨hlt, hget⟩ := List.getElem?_eq_some_iff.mp hcut
    rw [List.drop_eq_getElem_cons hlt, hget, exchangeFrom, Nat.sub_eq_zero_of_le (by omega)]
    simp [Exchange.prepend, cutExchange, Nat.sub_eq_zero_of_le (show n + 1 ≤ s.tape.length from hlt)]
  · have hlen : s.tape.length ≤ n := List.getElem?_eq_none_iff.mp hnone
    rw [State.drawAt] at hcut
    rw [List.drop_eq_nil_of_le hlen, hd, exchangeFrom_drawn_cut _ _ _ _ _ hcut]
    simp [Exchange.prepend, cutExchange, List.drop_eq_nil_of_le (show s.tape.length ≤ n + 1 by omega)]
    omega

theorem exchange_fault_of_hangsAt (hn : n < frameLen i) (hh : s.hangsAt n) (ha : s.answers i ∨ n ≤ 2) :
    (exchange (accept i s)).fault = some .busHung := by
  obtain ⟨hm, hhang⟩ := hh
  obtain ⟨hlt, hget⟩ := List.getElem?_eq_some_iff.mp hhang
  rw [exchange_of_prefix (r := frameLen i - n - 1 + 1) hm (by omega) ha, List.drop_eq_getElem_cons hlt, hget]
  rfl

/-- The reference device has no answer for the third byte of a READ of a word without a value (R150). -/
theorem exchange_fault_of_noValue {a : Addr} (hm : s.moves 3) (hd : s.device = .reference)
    (hv : s.mem.read32 a = none) : (exchange (accept (.read a) s)).fault = some (.noDeviceValue a) := by
  have hanswer (b : Byte) : deviceByte .reference s.mem (frameBytes (.read a)) 2 b = .error (.noDeviceValue a) := by
    simp [deviceByte, hv]
  rw [exchange_of_prefix (n := 2) (r := 3 + 1) (State.moves_mono hm (by decide)) rfl (.inr (Nat.le_refl 2)), hd]
  obtain ⟨b, hb⟩ | ⟨hnone, -⟩ := hm 2 (by decide)
  · obtain ⟨hlt, hget⟩ := List.getElem?_eq_some_iff.mp hb
    rw [List.drop_eq_getElem_cons hlt, hget]
    simp only [Exchange.prepend, exchangeFrom, hanswer]
  · rw [List.drop_eq_nil_of_le (List.getElem?_eq_none_iff.mp hnone)]
    simp only [Exchange.prepend, exchangeFrom, hanswer]

end

section
variable {i : Instr} {s : State} (hs : s.phase = .idle)
include hs

theorem exec_of_moves (hm : s.moves (frameLen i)) (ha : s.answers i) :
    exec i s = .next (wholeEnd i (movedExchange i s) s) := by
  have hx := exchange_of_moves hm ha
  rw [exec_of_whole hs (by rw [hx]; rfl) (by rw [hx]; rfl), hx]

theorem exec_of_cutsAt {n : Nat} (hn : n < frameLen i) (hc : s.cutsAt n) (ha : s.answers i ∨ n ≤ 2) :
    exec i s = .next (shortEnd i (cutExchange i n s) s) := by
  have hx := exchange_of_cutsAt hn hc ha
  rw [exec_of_short hs (by rw [hx]; rfl) (by rw [hx]; rfl), hx]

theorem exec_of_hangsAt {n : Nat} (hn : n < frameLen i) (hh : s.hangsAt n) (ha : s.answers i ∨ n ≤ 2) :
    exec i s = .fault .busHung :=
  exec_of_fault hs (exchange_fault_of_hangsAt hn hh ha)

theorem exec_of_noValue {a : Addr} (hm : s.moves 3) (hd : s.device = .reference) (hv : s.mem.read32 a = none) :
    exec (.read a) s = .fault (.noDeviceValue a) :=
  exec_of_fault hs (exchange_fault_of_noValue hm hd hv)

/-- WHAT THE ENVIRONMENT MAKES OF A COMMAND: it completes, it is cut short, or the block stops. -/
theorem exec_by_environment (i : Instr) :
    (s.moves (frameLen i) ∧ s.answers i ∧ exec i s = .next (wholeEnd i (movedExchange i s) s)) ∨
    (∃ n < frameLen i, s.cutsAt n ∧ exec i s = .next (shortEnd i (cutExchange i n s) s)) ∨
    ∃ f, exec i s = .fault f := by
  have stopped {n : Nat} (hn : n < frameLen i) (ha : s.answers i ∨ n ≤ 2) (h : s.cutsAt n ∨ s.hangsAt n) :
      (∃ n < frameLen i, s.cutsAt n ∧ exec i s = .next (shortEnd i (cutExchange i n s) s)) ∨
        ∃ f, exec i s = .fault f :=
    h.imp (fun hc => ⟨n, hn, hc, exec_of_cutsAt hs hn hc ha⟩) fun hh => ⟨_, exec_of_hangsAt hs hn hh ha⟩
  obtain ha | ⟨a, rfl, hd, hv⟩ := s.answers_or i
  · obtain hm | ⟨n, hn, h⟩ := s.moves_or_stops (frameLen i)
    · exact .inl ⟨hm, ha, exec_of_moves hs hm ha⟩
    · exact .inr (stopped hn (.inl ha) h)
  · obtain hm | ⟨n, hn, h⟩ := s.moves_or_stops 3
    · exact .inr (.inr ⟨_, exec_of_noValue hs hm hd hv⟩)
    · exact .inr (stopped (Nat.lt_of_lt_of_le hn (by simp [frameLen])) (.inr (by omega)) h)

/-- A command that completes with `OK` had all its bytes exchanged and answered. -/
theorem eq_wholeEnd_of_ok {t : State} (h : exec i s = .next t) (hok : t.status = .ok) :
    t = wholeEnd i (movedExchange i s) s := by
  obtain ⟨-, -, hx⟩ | ⟨n, -, -, hx⟩ | ⟨f, hx⟩ := exec_by_environment hs i
  · rw [hx] at h
    cases h
    rfl
  · rw [hx] at h
    cases h
    simp at hok
  · rw [hx] at h
    cases h

end

/-- Settles O19. -/
theorem readOfNoValueFaults : Obligations.ReadOfNoValueFaults :=
  fun _ _ hs hm hd hv => exec_of_noValue hs hm hd hv

/-- Settles O20. -/
theorem hungBusStopsTheBlock : Obligations.HungBusStopsTheBlock :=
  fun _ _ _ hs hn hh ha => exec_of_hangsAt hs hn hh ha

/-- An exchange that is cut does not move all its bytes. -/
theorem State.not_moves_of_cutsAt {s : State} {n m : Nat} (hc : s.cutsAt n) (hn : n < m) : ¬s.moves m := by
  intro hm
  obtain ⟨-, hcut⟩ := hc
  obtain ⟨b, hb⟩ | ⟨hnone, hfree⟩ := hm n hn
  · simp [hb] at hcut
  · obtain hcut | ⟨-, hd, hcut⟩ := hcut
    · simp [hnone] at hcut
    · simp [hfree hd] at hcut

/-- Settles O21. Without a hang and with a value for what is read, the environment moves all bytes or cuts one. -/
theorem everyCommandCompletes : Obligations.EveryCommandCompletes := by
  intro i s hs hret ha
  obtain hm | ⟨n, hn, hc | hh⟩ := s.moves_or_stops (frameLen i)
  · exact ⟨_, exec_of_moves hs hm ha, by simp, by simp, by simp, by simp [hm]⟩
  · exact ⟨_, exec_of_cutsAt hs hn hc (.inl ha), rfl, rfl, rfl, by simp [State.not_moves_of_cutsAt hc hn]⟩
  · exact absurd hh (hret n hn)

/-- No command reads `STATUS` (R24). -/
theorem exec_with_status {i : Instr} {s : State} (hs : s.phase = .idle) (st : Status) :
    exec i { s with status := st } = exec i s := by
  obtain ⟨f, hf, hx⟩ | ⟨hf, hshort, hx⟩ | ⟨hf, hshort, hx⟩ := exec_ends hs i
  · rw [hx]
    exact exec_of_fault (s := { s with status := st }) hs hf
  · rw [hx]
    exact exec_of_short (s := { s with status := st }) hs hf hshort
  · rw [hx, exec_of_whole (s := { s with status := st }) hs hf hshort]
    cases i <;> rfl

/-- Settles O22. -/
theorem statusIsWrittenAtEveryCompletion : Obligations.StatusIsWrittenAtEveryCompletion := by
  refine ⟨fun i s hs => ⟨fun hm ha => ?_, fun n hn hc ha => ?_, exec_with_status hs⟩, rfl⟩
  · refine ⟨_, exec_of_moves hs hm ha, by simp, by simp [State.statusWritten], by simp [State.hostStatus],
      by simp [State.statusPort, State.hostStatus, Status.code], ?_⟩
    rintro rfl
    exact ⟨_, _, rfl⟩
  · exact ⟨_, exec_of_cutsAt hs hn hc ha, rfl, rfl, rfl, rfl⟩

/-- A command offered to a busy block is not taken (R28, D18). -/
theorem exec_busy (i : Instr) {s : State} (hs : s.phase ≠ .idle) : exec i s = .next s := by
  rw [exec_eq_transact, transact_busy _ _ _ hs]

/-- Settles O23. -/
theorem busyBlockTakesNoCommand : Obligations.BusyBlockTakesNoCommand := fun i _ hs => exec_busy i hs

/-- Settles O24. -/
theorem rdataValidity : Obligations.RdataValidity := by
  refine ⟨fun s => by simp [State.rdataValid], fun s => rfl, rfl,
    fun a s t hs h => ⟨fun hok => ?_, fun herr => ?_⟩, fun i s t hi h => ?_⟩
  · obtain rfl := eq_wholeEnd_of_ok hs h hok
    rw [State.hostRdata, if_pos (by simp [State.rdataValid, Instr.op]), wholeEnd_read_rdata _ _ _ _ _ _ _ _ _ rfl]
  · obtain ⟨x, -, ⟨-, rfl⟩ | ⟨-, rfl⟩⟩ := exec_next hs h
    · exact ⟨rfl, rfl⟩
    · simp at herr
  · by_cases hs : s.phase = .idle
    · obtain ⟨x, -, ⟨-, rfl⟩ | ⟨-, rfl⟩⟩ := exec_next hs h
      · rfl
      · exact wholeEnd_rdata i x s hi
    · rw [exec_busy i hs] at h
      cases h
      rfl

end Sys2Proof.Machine

/-! ## What each command leaves, as a whole state (R110, R120, R130, R192) -/
namespace Sys2Proof.Machine

/-- The reference device after a cut (R198). -/
theorem Device.afterCut_eq (d : Device) : d.afterCut = if d = .oracle then .oracle else .unknown := by
  cases d <;> rfl

/-- A RESET makes an unknown device the reference device; no other frame changes which device it is (R153, R198). -/
theorem Device.afterFrame_frameBytes (d : Device) (i : Instr) :
    d.afterFrame (frameBytes i) = if d = .unknown ∧ i = .reset then .reference else d := by
  cases d with
  | oracle => rfl
  | reference => rfl
  | unknown =>
    rw [Device.afterFrame, decodeFrame_frameBytes]
    cases i <;> rfl

/-- A RESET restores the reset words of the reference device (R153). -/
theorem Device.contentsAfter_frameBytes_reset (d : Device) (m : Memory) :
    d.contentsAfter m (frameBytes .reset) = if d = .oracle then m else resetMemory := by
  cases d <;> rfl

/-- A WRITE is stored by the reference device alone (R151, R198). -/
theorem Device.contentsAfter_frameBytes_write (d : Device) (m : Memory) (a : Addr) (v : Word) :
    d.contentsAfter m (frameBytes (.write a v)) = if d = .reference then m.write32 a v else m := by
  cases d with
  | oracle => rfl
  | reference => simp [Device.contentsAfter]
  | unknown => simp [Device.contentsAfter]

/-- A READ keeps the contents of every device. -/
theorem Device.contentsAfter_frameBytes_read (d : Device) (m : Memory) (a : Addr) :
    d.contentsAfter m (frameBytes (.read a)) = m :=
  contentsAfter_read d m _ a (decodeFrame_frameBytes _)

theorem frameBytes_write_fields (a : Addr) (v : Word) : frameBytes (.write a v) =
    [0x2#4 ++ a.extractLsb' 8 4, a.extractLsb' 0 8, v.extractLsb' 0 8, v.extractLsb' 8 8, v.extractLsb' 16 8,
      v.extractLsb' 24 8] := by
  rw [frameBytes_write, hdr_eq_fields, pack32_eq_fields]
  rfl

theorem frameBytes_read_fields (a : Addr) : frameBytes (.read a) =
    [0x3#4 ++ a.extractLsb' 8 4, a.extractLsb' 0 8, 0, 0, 0, 0] := by
  rw [frameBytes_read, hdr_eq_fields]
  rfl

/-- Nothing but a READ needs a value of the device. -/
theorem State.answers_of_ne_read (s : State) {i : Instr} (h : i.op ≠ .read) : s.answers i := by
  rintro a rfl
  exact absurd rfl h

/-- The bytes a cut exchange captured are as many as the environment moved. -/
@[simp] theorem cutExchange_rx_length (i : Instr) (n : Nat) (s : State) : (cutExchange i n s).rx.length = n := by
  simp [cutExchange]

/-- A cut command leaves on the bus the bytes that were taken (R192). -/
theorem shortEnd_cutExchange_wire (i : Instr) (n : Nat) (s : State) : (shortEnd i (cutExchange i n s) s).wire =
    s.wire ++ [.csLow] ++ ((frameBytes i).take n).map .byte ++ [.csHigh] := by
  simp [transactionLog]

/-- Settles O18, register by register. -/
theorem shortExchangeRaisesBusIoErr : Obligations.ShortExchangeRaisesBusIoErr := by
  intro i s n hs hn hc ha
  rw [exec_of_cutsAt hs hn hc ha]
  have hidx : BitVec.ofNat 3 (cutExchange i n s).rx.length = BitVec.ofNat 3 n := by rw [cutExchange_rx_length]
  exact congrArg _ (State.ext rfl rfl rfl rfl rfl rfl hidx rfl rfl rfl rfl rfl rfl s.device.afterCut_eq rfl rfl rfl
    (shortEnd_cutExchange_wire i n s))

/-- Settles O15. -/
theorem resetCompletes : Obligations.ResetCompletes := by
  intro s hs
  refine ⟨fun hm => ?_, fun n hn hc => ?_⟩
  · have hdevice : s.device.afterFrame (frameBytes .reset) = if s.device = .unknown then .reference else s.device := by
      simp [Device.afterFrame_frameBytes]
    exact ⟨Config.tResetSleepActual (movedExchange .reset s).draws, _, Nat.le_add_right 2 _,
      exec_of_moves hs hm (s.answers_of_ne_read (by decide)), wholeEnd_hostResult _ _ _ (by decide),
      State.ext rfl rfl rfl rfl rfl rfl rfl rfl rfl rfl rfl rfl rfl ((wholeEnd_device ..).trans hdevice)
        ((wholeEnd_mem ..).trans (s.device.contentsAfter_frameBytes_reset s.mem)) rfl rfl (wholeEnd_wire ..)⟩
  · have hzeros : (frameBytes .reset).take n = List.replicate n 0x00 := by
      rw [show frameBytes .reset = List.replicate 2 0x00 from rfl, List.take_replicate, Nat.min_eq_left (by omega)]
    refine ⟨_, exec_of_cutsAt hs hn hc (.inr (by omega)), shortEnd_hostResult .., rfl, rfl, rfl, rfl, ?_⟩
    rw [shortEnd_cutExchange_wire, hzeros, List.map_replicate]

/-- Settles O17. -/
theorem writeCompletes : Obligations.WriteCompletes := by
  intro a v s hs
  have ha : s.answers (.write a v) := s.answers_of_ne_read (by simp [Instr.op])
  refine ⟨fun hm => ?_, fun n hn hc => ?_⟩
  · have hdevice : s.device.afterFrame (frameBytes (.write a v)) = s.device := by simp [Device.afterFrame_frameBytes]
    have htx : s.tx.load 0 (frameBytes (.write a v)) = ⟨0x2#4 ++ a.extractLsb' 8 4, a.extractLsb' 0 8,
        v.extractLsb' 0 8, v.extractLsb' 8 8, v.extractLsb' 16 8, v.extractLsb' 24 8⟩ := by
      rw [frameBytes_write_fields]
      rfl
    refine ⟨_, exec_of_moves hs hm ha, wholeEnd_hostResult _ _ _ (by simp [Instr.op]),
      State.ext rfl rfl rfl htx rfl rfl rfl rfl rfl rfl rfl rfl rfl hdevice
        (s.device.contentsAfter_frameBytes_write s.mem a v) rfl rfl ?_⟩
    rw [wholeEnd_wire, frameBytes_write_fields]
    rfl
  · exact ⟨_, exec_of_cutsAt hs hn hc (.inl ha), shortEnd_hostResult .., rfl, rfl, rfl, rfl⟩

/-- Settles O16. -/
theorem readCompletes : Obligations.ReadCompletes := by
  intro a s hs
  refine ⟨fun hm ha => ?_, fun n hn hc ha => ?_⟩
  · have hdevice : s.device.afterFrame (frameBytes (.read a)) = s.device := by simp [Device.afterFrame_frameBytes]
    have htx : s.tx.load 0 (frameBytes (.read a)) =
        ⟨0x3#4 ++ a.extractLsb' 8 4, a.extractLsb' 0 8, 0, 0, 0, 0⟩ := by
      rw [frameBytes_read_fields]
      rfl
    have hrdata : (wholeEnd (.read a) (movedExchange (.read a) s) s).rdata = s.answer (.read a) 5 ++
        s.answer (.read a) 4 ++ s.answer (.read a) 3 ++ s.answer (.read a) 2 := by
      rw [wholeEnd_read_rdata _ _ _ _ _ _ _ _ _ rfl, unpack32_eq_append]
    refine ⟨_, exec_of_moves hs hm ha, wholeEnd_read_hostResult ..,
      State.ext rfl rfl rfl htx rfl rfl rfl rfl rfl rfl hrdata rfl rfl hdevice
        (s.device.contentsAfter_frameBytes_read s.mem a) rfl rfl ?_⟩
    rw [wholeEnd_wire, frameBytes_read_fields]
    rfl
  · exact ⟨_, exec_of_cutsAt hs hn hc ha, shortEnd_hostResult .., rfl, rfl, rfl, rfl⟩

/-! ## The order of the payload bytes (R57) -/

/-- Byte `j` of a packed word is byte `j` of the word, counted from the least significant (R84). -/
theorem getElem?_pack32 (v : Word) {j : Nat} (hj : j < 4) : (pack32 v)[j]? = some (wordByte v j) := by
  match j, hj with
  | 0, _ | 1, _ | 2, _ | 3, _ => rfl

/-- The word of four bytes has byte `j` of them as its byte `j`. -/
theorem wordByte_unpack32 (f : Nat → Byte) {j : Nat} (hj : j < 4) :
    wordByte (unpack32 (f 0) (f 1) (f 2) (f 3)) j = f j := by
  have hget := getElem?_pack32 (unpack32 (f 0) (f 1) (f 2) (f 3)) hj
  rw [pack32_unpack32] at hget
  match j, hj with
  | 0, _ | 1, _ | 2, _ | 3, _ => exact (Option.some.inj hget).symm

/-- In a payload of several words byte `j` of word `w` is at `4 w + j`. -/
theorem getElem?_flatMap_pack32 (ws : List Word) (w : Nat) {j : Nat} (hj : j < 4) :
    (ws.flatMap pack32)[4 * w + j]? = ws[w]?.map fun v => wordByte v j := by
  induction ws generalizing w with
  | nil => simp
  | cons v ws ih =>
    rw [List.flatMap_cons]
    cases w with
    | zero =>
      rw [List.getElem?_append_left (by simpa [pack32] using hj), Nat.mul_zero, Nat.zero_add, getElem?_pack32 v hj]
      rfl
    | succ w =>
      rw [List.getElem?_append_right (by simp [pack32]; omega), List.getElem?_cons_succ, ← ih w]
      congr 1
      simp [pack32]
      omega

/-- Settles O5. A WRITE packs its word, a READ unpacks the captured bytes, and both keep byte `j` at place `j`. -/
theorem payloadByteOrder : Obligations.PayloadByteOrder := by
  refine ⟨fun a v j hj => ?_, fun a s t hs h hok j b hj hb => ?_, fun c a ws w j v hj hv => ?_⟩
  · rw [getElem?_encode_write a v j hj, wordByte_eq_extractLsb']
  · obtain rfl := eq_wholeEnd_of_ok hs h hok
    rw [wholeEnd_read_rdata _ _ _ _ _ _ _ _ _ rfl, ← getLsbD_wordByte _ j b hb]
    exact congrArg (·.getLsbD b) (wordByte_unpack32 (fun k => s.answer (.read a) (2 + k)) hj)
  · rw [wireFormat, hdr_eq_fields, Nat.add_assoc, Nat.add_comm 2]
    change (ws.flatMap pack32)[4 * w + j]? = _
    rw [getElem?_flatMap_pack32 ws w hj, hv, Option.map_some, wordByte_eq_extractLsb']

/-! ## What a command leaves unchanged, its frame, and the device after it -/

/-- The bytes of a word that a WRITE stores to are the only ones it changes (R151). -/
theorem Memory.get_write32_of_ne (m : Memory) (a : Addr) (v : Word) (x : Addr) (h : ∀ j < 4, x ≠ byteAddr a j) :
    (m.write32 a v).get x.toNat = m.get x.toNat := by
  have hne : ∀ j < 4, (byteAddr a j).toNat ≠ x.toNat := fun j hj he => h j hj (BitVec.eq_of_toNat_eq he.symm)
  rw [Memory.get_write32, if_neg (hne 3 (by decide)), if_neg (hne 2 (by decide)), if_neg (hne 1 (by decide)),
    if_neg (hne 0 (by decide))]

/-- Only a WRITE changes `WDATA` (R28). -/
theorem wdataOperand_of_ne_write {i : Instr} (h : i.op ≠ .write) (w : Word) : i.wdataOperand w = w := by
  cases i with
  | reset => rfl
  | write => exact absurd rfl h
  | read => rfl

/-- Two bytes or fewer at the beginning of a buffer leave the other four (R110). -/
theorem Buf.load_of_length_le_two (b : Buf) {xs : List Byte} (h : xs.length ≤ 2) :
    b.load 0 xs = { b with b0 := (b.load 0 xs).b0, b1 := (b.load 0 xs).b1 } := by
  match xs, h with
  | [], _ | [_], _ | [_, _], _ => rfl

section
variable (i : Instr) (x : Exchange) (s : State)

/-- A whole READ keeps every byte of the device, a whole WRITE all but the four it stores to, and a RESET of the real
device its own. -/
theorem wholeEnd_mem_get (c : Addr) :
    (∀ a, i = .read a → (wholeEnd i x s).mem.get c.toNat = s.mem.get c.toNat) ∧
    (∀ a v, i = .write a v → (∀ j < 4, c ≠ byteAddr a j) →
      (wholeEnd i x s).mem.get c.toNat = s.mem.get c.toNat) ∧
    (i = .reset → s.device = .oracle → (wholeEnd i x s).mem.get c.toNat = s.mem.get c.toNat) := by
  rw [wholeEnd_mem]
  refine ⟨?_, ?_, ?_⟩
  · rintro a rfl
    rw [Device.contentsAfter_frameBytes_read]
  · rintro a v rfl hc
    rw [Device.contentsAfter_frameBytes_write]
    split
    · exact Memory.get_write32_of_ne _ a v c hc
    · rfl
  · rintro rfl hd
    rw [Device.contentsAfter_frameBytes_reset, if_pos hd]

end

/-- Settles O25. A busy block does not change; of an idle one each end of a command says what it keeps. -/
theorem commandFrame : Obligations.CommandFrame := by
  intro i s t h
  by_cases hs : s.phase = .idle
  · obtain ⟨x, -, ⟨hlen, rfl⟩ | ⟨hlen, rfl⟩⟩ := exec_next hs h
    · refine ⟨rfl, fun hw => wdataOperand_of_ne_write hw _, fun _ => rfl, ?_, fun hd => ?_,
        fun c => ⟨fun _ _ => rfl, fun _ _ _ _ => rfl, fun _ _ => rfl⟩⟩
      · rintro rfl
        exact ⟨rfl, Buf.load_of_length_le_two _ (Nat.le_of_lt hlen)⟩
      · rw [shortEnd_device, hd]
        rfl
    · refine ⟨wholeEnd_offers .., fun hw => ?_, fun hr => ?_, ?_, fun hd => ?_, fun c => ?_⟩
      · rw [wholeEnd_wdata, wdataOperand_of_ne_write hw]
      · exact wholeEnd_rdata i x s (hr.resolve_right (by simp))
      · rintro rfl
        exact ⟨rfl, Buf.load_of_length_le_two _ (Nat.le_of_eq hlen)⟩
      · rw [wholeEnd_device, hd]
        rfl
      · obtain ⟨hread, hwrite, hreset⟩ := wholeEnd_mem_get i x s c
        exact ⟨hread, hwrite, fun hi hd => hreset hi (hd.resolve_right (by simp))⟩
  · rw [exec_busy i hs] at h
    cases h
    exact ⟨rfl, fun _ => rfl, fun _ => rfl, fun _ => ⟨rfl, rfl⟩, id,
      fun x => ⟨fun _ _ => rfl, fun _ _ _ _ => rfl, fun _ _ => rfl⟩⟩

/-- Settles O44. A cut makes the reference device unknown, and of the whole frames only a RESET's makes it known. -/
theorem faultLeavesDeviceUnknownUntilReset : Obligations.FaultLeavesDeviceUnknownUntilReset := by
  intro i s t hs h
  obtain ⟨x, -, ⟨-, rfl⟩ | ⟨-, rfl⟩⟩ := exec_next hs h
  · simp [Device.afterCut_eq]
  · cases hd : s.device <;> simp [Device.afterFrame_frameBytes, hd]

/-- One transaction puts one frame on the bus: the bytes taken under it. -/
theorem wireFrames_append_transactionLog (w : List WireEvent) (bs : List Byte) (ms : List Nat) :
    wireFrames (w ++ transactionLog bs ms) = wireFrames w ++ [bs] := by
  have hsleeps : framesFrom [] (ms.map .slept) = [] := by
    induction ms with
    | nil => rfl
    | cons m ms ih => exact ih
  rw [wireFrames, transactionLog, List.cons_append, framesFrom_append_csLow, framesFrom_bytes]
  simp [framesFrom, hsleeps, wireFrames]

/-- Settles O27. -/
theorem oneFramePerCommand : Obligations.OneFramePerCommand := by
  intro i s t hs h
  obtain ⟨x, -, ⟨hlen, rfl⟩ | ⟨hlen, rfl⟩⟩ := exec_next hs h
  · refine ⟨(encode i).take x.rx.length, ?_, by simp, fun _ => ⟨_, hlen, rfl⟩⟩
    rw [shortEnd_wire, wireFrames_append_transactionLog]
    rfl
  · refine ⟨encode i, ?_, fun _ => rfl, by simp⟩
    rw [wholeEnd_wire, wireFrames_append_transactionLog, hlen, ← frameBytes_length, List.take_length]
    rfl

end Sys2Proof.Machine

/-! ## The small steps, one by one (R28 to R32) -/
namespace Sys2Proof.Machine

/-- `accept` in `IDLE` (R28). -/
theorem microStep_accept {s : State} {i : Instr} {rest : List Instr} (hs : s.phase = .idle)
    (ho : s.offers = i :: rest) : microStep s = .next (accept i { s with offers := rest }) := by
  simp only [microStep, hs, fetch, ho]

/-- No small step of a transaction looks at the command port (R28, D18). -/
theorem microStep_offers {s t : State} (hs : s.phase ≠ .idle) (h : microStep s = .next t) : t.offers = s.offers := by
  cases SmallStep.of_microStep h with
  | wait hp => exact absurd hp hs
  | accept _ _ hp => exact absurd hp hs
  | byte => rfl
  | short => rfl
  | finish =>
    unfold microFinish
    split <;> rfl
  | wake => rfl

/-- Settles O28. -/
theorem acceptStep : Obligations.AcceptStep := by
  refine ⟨fun i rest s hs ho => ?_, fun s t => microStep_offers⟩
  rw [microStep_accept hs ho]
  cases i <;> rfl

section
variable {s : State} (hp : s.phase = .xfer) (hi : s.idx < s.len)
include hp hi

/-- `byte`: the environment moves the next byte and the device answers it with `c` (R29). -/
theorem microStep_moves {c sent : Byte} (hm : s.moves 1) (hsent : s.tx.byte? s.idx.toNat = some sent)
    (hc : deviceByte s.device s.mem s.frame s.idx.toNat (s.choice 0) = .ok c) :
    microStep s = .next (moveByte sent c { s with tape := s.tape.drop 1, draws := s.draws + (1 - s.tape.length) }) := by
  have answered {b : Byte} {tape : List BusEvent} {draws : Nat} (hb : s.choice 0 = b) :
      microAnswer sent b { s with tape := tape, draws := draws } =
        .next (moveByte sent c { s with tape := tape, draws := draws }) := by
    rw [hb] at hc
    have hframe : State.frame { s with tape := tape, draws := draws } = s.frame := rfl
    simp only [microAnswer, hframe, hc]
  rw [microStep_byte s hp hi, microByte, hsent]
  obtain ⟨b, hb⟩ | ⟨hnone, hfree⟩ := hm 0 (by decide)
  · cases ht : s.tape with
    | nil => simp [ht] at hb
    | cons e tape =>
      obtain rfl : e = .moved b := by simpa [ht] using hb
      simpa using answered (tape := tape) (draws := s.draws) (by simp [State.choice, ht])
  · have ht : s.tape = [] := by simpa using hnone
    have hdraw : s.choice 0 = Config.freeByte s.draws := by simp [State.choice, ht, State.drawAt]
    have hstep := answered (tape := []) (draws := s.draws + 1) hdraw
    cases hd : s.device with
    | oracle =>
      have hcut : Config.freeCut s.draws = false := by simpa [State.drawAt, ht] using hfree hd
      have hfree : Config.freeByte s.draws = c := by simpa [hd, deviceByte, hdraw] using hc
      simp [ht, hcut, hfree]
    | reference => simpa [ht, hd] using hstep
    | unknown => simpa [ht, hd] using hstep

/-- `short`: the environment cuts the exchange at the next byte (R30). -/
theorem microStep_cuts (h6 : s.idx.toNat < 6) (hcut : s.cutsAt 0) :
    microStep s = .next (raiseBusIoErr { s with tape := s.tape.drop 1, draws := s.draws + (1 - s.tape.length) }) := by
  obtain ⟨sent, hsent⟩ := Buf.byte?_some s.tx s.idx.toNat h6
  rw [microStep_byte s hp hi, microByte, hsent]
  obtain ⟨-, hcut | ⟨hnone, hd, hcut⟩⟩ := hcut
  · cases ht : s.tape with
    | nil => simp [ht] at hcut
    | cons e tape =>
      obtain rfl : e = .cut := by simpa [ht] using hcut
      simp
  · have ht : s.tape = [] := by simpa using hnone
    have hcut : Config.freeCut s.draws = true := by simpa [State.drawAt, ht] using hcut
    simp [ht, hd, hcut]

end

/-- A buffer has no byte past its sixth. -/
theorem Buf.lt_six_of_byte? {b : Buf} {k : Nat} {x : Byte} (h : b.byte? k = some x) : k < 6 := by
  match k, h with
  | 0, _ | 1, _ | 2, _ | 3, _ | 4, _ | 5, _ => decide

/-- Settles O29. -/
theorem byteStep : Obligations.ByteStep := by
  refine ⟨fun s c sent hp hi hm hsent hc => ?_, fun s hd => by rw [hd]; rfl⟩
  refine ⟨_, microStep_moves hp hi hm hsent hc, fun k =>
    Buf.byte?_set _ _ _ _ (Buf.lt_six_of_byte? hsent), idx_succ_toNat hi⟩

/-- Settles O30. -/
theorem shortStep : Obligations.ShortStep := by
  intro s hp hi h6 hcut
  rw [microStep_cuts hp hi h6 hcut, raiseBusIoErr, Device.afterCut_eq]
  rfl

theorem microFinish_of_write {s : State} (ho : s.op = .write) :
    microFinish s = completeOk (deviceCommit (releaseCs s)) := by
  simp only [microFinish, ho]

theorem microFinish_of_read {s : State} (ho : s.op = .read) :
    microFinish s = completeOk (loadRdata (deviceCommit (releaseCs s))) := by
  simp only [microFinish, ho]

theorem microFinish_of_reset {s : State} (ho : s.op = .reset) :
    microFinish s = { deviceCommit (releaseCs s) with phase := .sleep } := by
  simp only [microFinish, ho]

/-- Settles O31. -/
theorem finishStep : Obligations.FinishStep := by
  intro s hp hi
  rw [microStep_finish s hp hi]
  refine ⟨fun ho => ?_, fun ho => ?_, fun ho => ?_⟩
  · simp only [microFinish_of_write ho, completeOk, deviceCommit_op, releaseCs_op, ho]
    rfl
  · simp only [microFinish_of_read ho, completeOk, loadRdata_op, loadRdata_rdata, deviceCommit_op, releaseCs_op, ho,
      ← unpack32_eq_append]
    rfl
  · rw [microFinish_of_reset ho]
    rfl

/-- Settles O32. -/
theorem wakeStep : Obligations.WakeStep :=
  fun s hp => ⟨Config.tResetSleepActual s.draws, Nat.le_add_right 2 _, microStep_sleep s hp⟩

/-- Settles O35. -/
theorem stepRunsThePresentedCommand : Obligations.StepRunsThePresentedCommand := by
  refine ⟨fun i rest s => step_offered, fun s => step_waits, fun s => step_busy, fun s nbits w i hi => ?_⟩
  have hpresent : s.withFetchWord nbits w = present i s := by
    rw [State.withFetchWord, hi]
  rw [hpresent]
  exact step_offered rfl rfl

/-! ## The small steps of a transaction compose to the whole command (R34) -/

/-- What the exchange `x` of the rest of a frame, from byte `IDX` on, leaves of the registers and the bus (R29). -/
def afterRest (s : State) (x : Exchange) : State :=
  { s with
    rx := s.rx.load s.idx.toNat x.rx
    idx := s.idx + BitVec.ofNat 3 x.rx.length
    tape := x.tape
    draws := x.draws
    wire := s.wire ++ ((s.frame.drop s.idx.toNat).take x.rx.length).map .byte }

/-- How the small steps end an exchange `x` that began in `s`: they stop, the command is cut, or the frame is whole
and at most `fuel` steps follow. -/
def restEnd (fuel : Nat) (s : State) (x : Exchange) : Host.Outcome State Fault Refusal :=
  match x.fault with
  | some f => .fault f
  | none => if x.short then .next (raiseBusIoErr (afterRest s x)) else settle fuel (afterRest s x)

section
variable {s t : State} {n : Nat}

theorem settle_of_next (hp : s.phase ≠ .idle) (h : microStep s = .next t) : settle (n + 1) s = settle n t := by
  cases hphase : s.phase with
  | idle => exact absurd hphase hp
  | xfer => simp only [settle, hphase, h]
  | sleep => simp only [settle, hphase, h]

theorem settle_of_fault {f : Fault} (hp : s.phase ≠ .idle) (h : microStep s = .fault f) :
    settle (n + 1) s = .fault f := by
  cases hphase : s.phase with
  | idle => exact absurd hphase hp
  | xfer => simp only [settle, hphase, h]
  | sleep => simp only [settle, hphase, h]

end

/-- ONE BYTE of the exchange of a frame, at both grains: the exchange `x` of the bytes that are left and the small step
stop alike, are cut alike, or capture the same byte and go on with the same choices. -/
def SameByte (s : State) (sent : Byte) (n : Nat) (x : Exchange) : Prop :=
  (∃ f, x.fault = some f ∧ microByte s = .fault f) ∨
  (∃ tape draws, x = ⟨none, true, [], tape, draws⟩ ∧
    microByte s = .next (raiseBusIoErr { s with tape, draws })) ∨
  (∃ c tape draws, x = (exchangeFrom s.device s.mem s.frame n (s.idx.toNat + 1) tape draws).cons c ∧
    microByte s = .next (moveByte sent c { s with tape, draws }))

/-- Past the end of the tape, a reference device without an answer stops the exchange. -/
theorem exchangeFrom_filler_fault {d : Device} {m : Memory} {f : List Byte} {n k dr : Nat} {e : Fault}
    (hd : d ≠ .oracle) (h : deviceByte d m f k (Config.freeByte dr) = .error e) :
    (exchangeFrom d m f (n + 1) k [] dr).fault = some e := by
  cases d with
  | oracle => exact absurd rfl hd
  | reference => simp only [exchangeFrom, h]
  | unknown => simp only [exchangeFrom, h]

/-- Both grains ask the device for its answer to one choice `b` of the environment. -/
theorem SameByte.of_answer {s : State} {sent : Byte} {n : Nat} {x : Exchange} {b : Byte} {tape : List BusEvent}
    {draws : Nat} (hm : microByte s = microAnswer sent b { s with tape, draws })
    (herr : ∀ f, deviceByte s.device s.mem s.frame s.idx.toNat b = .error f → x.fault = some f)
    (hok : ∀ c, deviceByte s.device s.mem s.frame s.idx.toNat b = .ok c →
      x = (exchangeFrom s.device s.mem s.frame n (s.idx.toNat + 1) tape draws).cons c) : SameByte s sent n x := by
  have hframe : State.frame { s with tape, draws } = s.frame := rfl
  cases hb : deviceByte s.device s.mem s.frame s.idx.toNat b with
  | error f => exact .inl ⟨f, herr f hb, by simp only [hm, microAnswer, hframe, hb]⟩
  | ok c => exact .inr (.inr ⟨c, tape, draws, hok c hb, by simp only [hm, microAnswer, hframe, hb]⟩)

/-- The next byte is the same at both grains, whatever the environment does with it. -/
theorem sameByte_exchangeFrom {s : State} {sent : Byte} (hsent : s.tx.byte? s.idx.toNat = some sent) (n : Nat) :
    SameByte s sent n (exchangeFrom s.device s.mem s.frame (n + 1) s.idx.toNat s.tape s.draws) := by
  match ht : s.tape with
  | .cut :: tape => exact .inr (.inl ⟨tape, s.draws, rfl, by simp only [microByte, hsent, ht]⟩)
  | .hang :: tape => exact .inl ⟨.busHung, rfl, by simp only [microByte, hsent, ht]⟩
  | .moved b :: tape =>
    exact .of_answer (b := b) (tape := tape) (draws := s.draws) (by simp only [microByte, hsent, ht])
      (fun f hf => by simp only [exchangeFrom, hf]) fun c hc => exchangeFrom_moved _ _ _ _ _ _ _ _ _ hc
  | [] =>
    have filler (hd : s.device ≠ .oracle)
        (hm : microByte s = microAnswer sent (Config.freeByte s.draws) { s with tape := [], draws := s.draws + 1 }) :
        SameByte s sent n (exchangeFrom s.device s.mem s.frame (n + 1) s.idx.toNat [] s.draws) :=
      .of_answer hm (fun f => exchangeFrom_filler_fault hd) fun c => exchangeFrom_filler _ _ _ _ _ _ _ hd
    cases hd : s.device with
    | oracle =>
      cases hcut : Config.freeCut s.draws with
      | true =>
        exact .inr (.inl ⟨[], s.draws + 1, exchangeFrom_drawn_cut _ _ _ _ _ hcut, by
          simp [microByte, hsent, ht, hd, hcut]⟩)
      | false =>
        exact .inr (.inr ⟨Config.freeByte s.draws, [], s.draws + 1, by
          rw [hd, exchangeFrom_drawn _ _ _ _ _ hcut], by simp [microByte, hsent, ht, hd, hcut]⟩)
    | reference => exact hd ▸ filler (by simp [hd]) (by simp [microByte, hsent, ht, hd])
    | unknown => exact hd ▸ filler (by simp [hd]) (by simp [microByte, hsent, ht, hd])

/-- An exchange that captures nothing leaves only its use of the environment's choices. -/
theorem afterRest_of_nil (s : State) {x : Exchange} (hx : x.rx = []) :
    afterRest s x = { s with tape := x.tape, draws := x.draws } := by
  simp [afterRest, hx, Buf.load]

/-- After one byte of an exchange the rest leaves what the whole leaves. -/
theorem afterRest_moveByte {s : State} {sent : Byte} (c : Byte) {tape : List BusEvent} {draws : Nat} (x : Exchange)
    (hi : s.idx < s.len) (hsent : s.frame[s.idx.toNat]? = some sent) :
    afterRest (moveByte sent c { s with tape, draws }) x = afterRest s (x.cons c) := by
  have hidx := idx_succ_toNat hi
  obtain ⟨hlt, hget⟩ := List.getElem?_eq_some_iff.mp hsent
  refine State.ext rfl rfl rfl rfl ?_ rfl ?_ rfl rfl rfl rfl rfl rfl rfl rfl rfl rfl ?_
  · change (s.rx.set s.idx.toNat c).load (s.idx + 1).toNat x.rx = s.rx.load s.idx.toNat (c :: x.rx)
    rw [hidx, Buf.load]
  · change s.idx + 1 + BitVec.ofNat 3 x.rx.length = s.idx + BitVec.ofNat 3 (x.rx.length + 1)
    rw [BitVec.ofNat_add, BitVec.add_assoc, BitVec.add_comm 1]
    rfl
  · change s.wire ++ [.byte sent] ++ ((s.frame.drop (s.idx + 1).toNat).take x.rx.length).map .byte =
      s.wire ++ ((s.frame.drop s.idx.toNat).take (x.rx.length + 1)).map .byte
    rw [hidx, List.drop_eq_getElem_cons hlt, hget]
    simp

theorem restEnd_moveByte {s : State} {sent : Byte} (c : Byte) {tape : List BusEvent} {draws : Nat} (fuel : Nat)
    (x : Exchange) (hi : s.idx < s.len) (hsent : s.frame[s.idx.toNat]? = some sent) :
    restEnd fuel (moveByte sent c { s with tape, draws }) x = restEnd fuel s (x.cons c) := by
  rw [restEnd, afterRest_moveByte c x hi hsent]
  rfl

/-- The small steps in `XFER` exchange the rest of the frame, byte by byte, and end as that exchange does. -/
theorem settle_exchange (n fuel : Nat) (s : State) (hp : s.phase = .xfer) (hn : s.idx.toNat + n = s.len.toNat)
    (h6 : s.len.toNat ≤ 6) : settle (n + fuel) s =
      restEnd fuel s (exchangeFrom s.device s.mem s.frame n s.idx.toNat s.tape s.draws) := by
  induction n generalizing s with
  | zero => rw [restEnd, afterRest_of_nil s rfl, Nat.zero_add]; rfl
  | succ n ih =>
    have hlt : s.idx.toNat < s.len.toNat := by omega
    have hi : s.idx < s.len := hlt
    have hbusy : s.phase ≠ .idle := by simp [hp]
    obtain ⟨sent, hsent⟩ := Buf.byte?_some s.tx s.idx.toNat (by omega)
    have hnext := State.frame_getElem? s _ h6 hlt sent hsent
    rw [Nat.add_right_comm]
    obtain ⟨f, hx, hm⟩ | ⟨tape, draws, hx, hm⟩ | ⟨c, tape, draws, hx, hm⟩ := sameByte_exchangeFrom hsent n
    · rw [settle_of_fault hbusy ((microStep_byte s hp hi).trans hm), restEnd, hx]
    · rw [settle_of_next hbusy ((microStep_byte s hp hi).trans hm), hx, settle_idle _ _ rfl, restEnd,
        afterRest_of_nil s rfl]
      rfl
    · rw [settle_of_next hbusy ((microStep_byte s hp hi).trans hm), hx, ← restEnd_moveByte c fuel _ hi hnext]
      have hidx := idx_succ_toNat hi
      have hrest := ih (moveByte sent c { s with tape, draws }) hp
        (show (s.idx + 1).toNat + n = s.len.toNat by omega) h6
      rw [moveByte_idx, hidx] at hrest
      exact hrest

/-- The exchange of a whole frame leaves what the exchange of its rest from byte 0 on leaves. -/
theorem afterRest_accept (i : Instr) (s : State) (x : Exchange) :
    afterRest (accept i s) x = afterExchange (accept i s) x := by
  refine State.ext rfl rfl rfl rfl rfl rfl ?_ rfl rfl rfl rfl rfl rfl rfl rfl rfl rfl rfl
  exact BitVec.zero_add _

/-- `finish` and, for RESET, `wake` complete a command whose frame is whole (R31, R32). -/
theorem settle_finish {i : Instr} {s : State} (hp : s.phase = .xfer) (hi : s.idx = s.len) (ho : s.op = i.op) (k : Nat) :
    settle (waitDraws i + 1 + k) s = .next (completion i (deviceCommit (releaseCs s))) := by
  have hbusy : s.phase ≠ .idle := by simp [hp]
  have hfinish := microStep_finish s hp hi
  cases i with
  | reset =>
    rw [microFinish_of_reset ho] at hfinish
    rw [waitDraws, Nat.add_right_comm, settle_of_next hbusy hfinish, Nat.add_comm 1 k,
      settle_of_next (by simp) (microStep_sleep _ rfl), settle_idle _ _ rfl]
    rfl
  | write =>
    rw [microFinish_of_write ho] at hfinish
    rw [waitDraws, Nat.add_right_comm, settle_of_next hbusy hfinish, settle_idle _ _ rfl]
    rfl
  | read =>
    rw [microFinish_of_read ho] at hfinish
    rw [waitDraws, Nat.add_right_comm, settle_of_next hbusy hfinish, settle_idle _ _ rfl]
    rfl

/-- The fuel is enough for a frame, `finish` and, for RESET, `wake` (R34). -/
theorem settleFuel_eq (i : Instr) : ∃ k, settleFuel = frameLen i + (waitDraws i + 1 + k) := by
  cases i with
  | reset => exact ⟨3, rfl⟩
  | write => exact ⟨0, rfl⟩
  | read => exact ⟨0, rfl⟩

/-- Settles O34. The small steps after `accept` exchange the frame as `exchange` does, and what follows the exchange is
the same at both grains. -/
theorem smallStepsComposeToBigStep : Obligations.SmallStepsComposeToBigStep := by
  intro i s hs
  obtain ⟨k, hk⟩ := settleFuel_eq i
  have hlen : (accept i s).len.toNat = frameLen i := by simp
  have hsettle : settle settleFuel (accept i s) =
      restEnd (waitDraws i + 1 + k) (accept i s) (exchange (accept i s)) := by
    rw [hk, exchange, hlen]
    exact settle_exchange _ _ _ rfl ((Nat.zero_add _).trans hlen.symm) (hlen ▸ frameLen_le_six i)
  rw [hsettle, restEnd, afterRest_accept]
  obtain ⟨f, hf, hx⟩ | ⟨hf, hshort, hx⟩ | ⟨hf, hshort, hx⟩ := exec_ends hs i
  · rw [hx, hf]
  · rw [hx, hf, hshort]
    rfl
  · have hwhole := hf
    rw [exchange_accept] at hwhole
    have hcaptured : (exchange (accept i s)).rx.length = frameLen i := by
      rw [exchange_accept] at hshort ⊢
      exact (exchangeFrom_length _ _ _ _ _ _ _ hwhole).1 hshort
    rw [hx, hf, hshort]
    exact settle_finish rfl (by rw [afterExchange_idx, hcaptured]; rfl) rfl k

/-! ## Commands in order (R65) -/

/-- A command puts one frame on the bus: its own or a beginning of it. -/
theorem exec_frame {i : Instr} {s t : State} (hs : s.phase = .idle) (h : exec i s = .next t) :
    ∃ n ≤ frameLen i, wireFrames t.wire = wireFrames s.wire ++ [(encode i).take n] := by
  obtain ⟨f, hw, hok, herr⟩ := oneFramePerCommand i s t hs h
  cases hst : t.status with
  | ok =>
    refine ⟨frameLen i, Nat.le_refl _, ?_⟩
    rw [hw, hok hst, encode, ← frameBytes_length, List.take_length]
  | busIoErr =>
    obtain ⟨n, hn, rfl⟩ := herr hst
    exact ⟨n, Nat.le_of_lt hn, hw⟩

theorem exec_offers {i : Instr} {s t : State} (h : exec i s = .next t) : t.offers = s.offers := by
  obtain ⟨hoffers, -⟩ := commandFrame i s t h
  exact hoffers

/-- Settles O36, by induction on the commands at the port: the first one runs to its end, the others from there. -/
theorem commandsRunInOrder : Obligations.CommandsRunInOrder := by
  intro s t hs h
  induction ho : s.offers generalizing s with
  | nil =>
    rw [ho] at h
    cases h
    exact ⟨hs, ho, [], by simp, rfl, by simp⟩
  | cons i rest ih =>
    rw [ho, List.length_cons, steps, step_offered hs ho] at h
    cases hx : exec i { s with offers := rest } with
    | fault f => simp [hx] at h
    | refused r => simp [hx] at h
    | next u =>
      have hu := exec_offers hx
      obtain ⟨n, -, hw⟩ := exec_frame (s := { s with offers := rest }) hs hx
      obtain ⟨hidle, hempty, fs, hfs, hlen, hbegin⟩ :=
        ih u (exec_released (s := { s with offers := rest }) hs hx).1 (by simpa [hx, hu] using h) hu
      refine ⟨hidle, hempty, (encode i).take n :: fs, by simp [hfs, hw], by simp [hlen], ?_⟩
      intro k j f hj hf
      cases k with
      | zero =>
        obtain rfl : i = j := by simpa using hj
        exact ⟨n, by simpa using hf.symm⟩
      | succ k => exact hbegin k j f hj hf

end Sys2Proof.Machine

/-! ## The reference device's memory, word by word (R150, R151, R153, R154) -/
namespace Sys2Proof.Machine

/-- Byte `j` of a word lies at `x` when `x` is `j` past the word's address, wrapping at 4096 (R59). -/
theorem byteAddr_eq_iff (a x : Addr) {j : Nat} (hj : j < 4) : (byteAddr a j).toNat = x.toNat ↔ (x - a).toNat = j := by
  rw [byteAddr]
  constructor <;> intro h <;> bv_omega

/-- Reading one byte after `MemWrite(a, 4, v)`, by its distance from the word's address (R151). -/
theorem Memory.get_write32_eq_ite (m : Memory) (a : Addr) (v : Word) (x : Addr) : (m.write32 a v).get x.toNat =
    if (x - a).toNat < 4 then some (wordByte v (x - a).toNat) else m.get x.toNat := by
  rw [Memory.get_write32]
  simp only [byteAddr_eq_iff a x (show 0 < 4 by decide), byteAddr_eq_iff a x (show 1 < 4 by decide),
    byteAddr_eq_iff a x (show 2 < 4 by decide), byteAddr_eq_iff a x (show 3 < 4 by decide)]
  by_cases h : (x - a).toNat < 4
  · rw [if_pos h]
    generalize (x - a).toNat = j at h
    match j, h with
    | 0, _ | 1, _ | 2, _ | 3, _ => rfl
  · rw [if_neg h, if_neg (by omega), if_neg (by omega), if_neg (by omega), if_neg (by omega)]

/-- Settles O41. -/
theorem memWriteStoresFourBytes : Obligations.MemWriteStoresFourBytes := by
  refine fun m a v => ⟨Memory.get_write32_eq_ite m a v, fun n hn => ?_, fun j hj => ?_⟩
  · have hne (j : Nat) : (byteAddr a j).toNat ≠ n := Nat.ne_of_lt (Nat.lt_of_lt_of_le (byteAddr a j).isLt hn)
    rw [Memory.get_write32, if_neg (hne 3), if_neg (hne 2), if_neg (hne 1), if_neg (hne 0)]
  · rw [byteAddr, BitVec.toNat_add, BitVec.toNat_ofNat, Nat.add_mod_mod]

/-- `MemRead` gives a word exactly when each of its four bytes has the word's byte there (R150). -/
theorem Memory.read32_eq_some_iff (m : Memory) (a : Addr) (w : Word) : m.read32 a = some w ↔
    ∀ j < 4, m.get (byteAddr a j).toNat = some (wordByte w j) := by
  unfold Memory.read32
  constructor
  · intro h j hj
    split at h
    · next b0 b1 b2 b3 h0 h1 h2 h3 =>
      obtain rfl := Option.some.inj h
      rw [← getElem?_pack32 _ hj, pack32_unpack32]
      match j, hj with
      | 0, _ => exact h0
      | 1, _ => exact h1
      | 2, _ => exact h2
      | 3, _ => exact h3
    · cases h
  · intro h
    rw [h 0 (by decide), h 1 (by decide), h 2 (by decide), h 3 (by decide)]
    exact congrArg some (unpack32_wordBytes w)

theorem byteAddr_sub_toNat (a : Addr) {j : Nat} (hj : j < 4) : (byteAddr a j - a).toNat = j :=
  (byteAddr_eq_iff a _ hj).mp rfl

/-- A word that was stored is read back (R154). -/
theorem Memory.read32_write32_same (m : Memory) (a : Addr) (v : Word) : (m.write32 a v).read32 a = some v := by
  rw [Memory.read32_eq_some_iff]
  intro j hj
  rw [Memory.get_write32_eq_ite, byteAddr_sub_toNat a hj, if_pos hj]

/-! ### The documented reset words (R153, R222) -/

/-- Two rows of a table of words share no byte. -/
def DisjointRows (r q : Addr × Word) : Prop := 4 ≤ (q.1 - r.1).toNat ∧ 4 ≤ (r.1 - q.1).toNat

/-- A word that shares no byte with a stored one keeps its value. -/
theorem Memory.read32_write32_of_disjoint (m : Memory) {r q : Addr × Word} (h : DisjointRows r q)
    (hr : m.read32 r.1 = some r.2) : (m.write32 q.1 q.2).read32 r.1 = some r.2 := by
  obtain ⟨hrq, hqr⟩ := h
  rw [Memory.read32_eq_some_iff] at hr ⊢
  intro j hj
  have hfar : ¬(byteAddr r.1 j - q.1).toNat < 4 := by
    rw [byteAddr]
    bv_omega
  rw [Memory.get_write32_eq_ite, if_neg hfar, hr j hj]

/-- The contents after loading a table of words into `m`. -/
def Memory.loadRows (m : Memory) (rows : List (Addr × Word)) : Memory :=
  rows.foldl (fun m row => m.write32 row.1 row.2) m

/-- A word keeps its value while rows that share no byte with it are loaded. -/
theorem Memory.read32_loadRows_of_disjoint (m : Memory) {r : Addr × Word} (rows : List (Addr × Word))
    (h : ∀ q ∈ rows, DisjointRows r q) (hr : m.read32 r.1 = some r.2) :
    (m.loadRows rows).read32 r.1 = some r.2 := by
  induction rows generalizing m with
  | nil => exact hr
  | cons q rows ih =>
    exact ih _ (fun p hp => h p (List.mem_cons_of_mem q hp))
      (m.read32_write32_of_disjoint (h q List.mem_cons_self) hr)

/-- Rows that share no byte are all read back after they were loaded. -/
theorem Memory.read32_loadRows (m : Memory) (rows : List (Addr × Word)) (h : rows.Pairwise DisjointRows) :
    ∀ r ∈ rows, (m.loadRows rows).read32 r.1 = some r.2 := by
  induction rows generalizing m with
  | nil => simp
  | cons q rows ih =>
    obtain ⟨hq, hrows⟩ := List.pairwise_cons.mp h
    intro r hr
    obtain rfl | hr := List.mem_cons.mp hr
    · exact Memory.read32_loadRows_of_disjoint _ rows hq (Memory.read32_write32_same _ _ _)
    · exact ih _ hrows r hr

/-- A byte in none of the rows is as before they were loaded. -/
theorem Memory.get_loadRows_of_outside (m : Memory) (rows : List (Addr × Word)) (x : Addr)
    (h : ∀ r ∈ rows, 4 ≤ (x - r.1).toNat) : (m.loadRows rows).get x.toNat = m.get x.toNat := by
  induction rows generalizing m with
  | nil => rfl
  | cons q rows ih =>
    have hq := h q List.mem_cons_self
    refine (ih _ fun r hr => h r (List.mem_cons_of_mem q hr)).trans ?_
    rw [Memory.get_write32_eq_ite, if_neg (by omega)]

theorem resetMemory_eq_loadRows : resetMemory = Memory.loadRows [] resetTable := rfl

/-- The rows of the reset table share no byte (R222). -/
theorem resetTable_disjoint : resetTable.Pairwise DisjointRows := by
  unfold DisjointRows
  decide

/-- Settles O42. A RESET that completed with `OK` loaded the reset table into an empty memory; its rows share no byte,
so each is read back, and a byte in none of them was never set. -/
theorem resetRestoresDocumentedWords : Obligations.ResetRestoresDocumentedWords := by
  intro s t hs hd h hok
  obtain rfl := eq_wholeEnd_of_ok hs h hok
  have hmem : (wholeEnd .reset (movedExchange .reset s) s).mem = Memory.loadRows [] resetTable := by
    rw [wholeEnd_mem, Device.contentsAfter_frameBytes_reset, if_neg hd, resetMemory_eq_loadRows]
  refine ⟨?_, fun row hrow => ?_, rfl, fun x hx => ?_⟩
  · rw [wholeEnd_device, Device.afterFrame_frameBytes]
    cases hdev : s.device with
    | oracle => exact absurd hdev hd
    | reference => rfl
    | unknown => rfl
  · rw [hmem]
    exact Memory.read32_loadRows [] resetTable resetTable_disjoint row hrow
  · rw [hmem]
    exact Memory.get_loadRows_of_outside [] resetTable x hx

/-! ### Commands of the reference device that nothing cuts (R152) -/

/-- An idle block with the reference device, which holds `m` and whose exchanges nothing cuts. -/
structure OnReference (s : State) (m : Memory) : Prop where
  idle : s.phase = .idle
  device : s.device = .reference
  tape : s.tape = []
  mem : s.mem = m

theorem OnReference.moves {s : State} {m : Memory} (h : OnReference s m) (n : Nat) : s.moves n :=
  s.moves_of_reference n (by simp [h.device]) h.tape

/-- A whole command leaves the reference device in place and its exchanges uncut. -/
theorem OnReference.wholeEnd {s : State} {m : Memory} (h : OnReference s m) (i : Instr) :
    OnReference (wholeEnd i (movedExchange i s) s) (Device.reference.contentsAfter m (frameBytes i)) where
  idle := wholeEnd_phase ..
  device := by simp [h.device, Device.afterFrame]
  tape := by simp [movedExchange, h.tape]
  mem := by simp [h.device, h.mem]

/-- A WRITE stores its word (R151). -/
theorem exec_write_onReference {s : State} {m : Memory} (h : OnReference s m) (a : Addr) (v : Word) :
    ∃ t, exec (.write a v) s = .next t ∧ t.hostResult = some (.ok, none) ∧ OnReference t (m.write32 a v) := by
  refine ⟨_, exec_of_moves h.idle (h.moves _) (s.answers_of_ne_read (by simp [Instr.op])),
    wholeEnd_hostResult _ _ _ (by simp [Instr.op]), ?_⟩
  rw [← Device.contentsAfter_write m _ a v (decodeFrame_frameBytes _)]
  exact h.wholeEnd _

/-- A READ returns the addressed word and changes nothing in the device (R150, R152). -/
theorem exec_read_onReference {s : State} {m : Memory} (h : OnReference s m) {a : Addr} {w : Word}
    (hw : m.read32 a = some w) :
    ∃ t, exec (.read a) s = .next t ∧ t.hostResult = some (.ok, some w) ∧ OnReference t m := by
  have hanswer (j : Nat) : s.answer (.read a) (2 + j) = wordByte w j := by
    simp only [State.answer, h.device, h.mem, hw]
    rw [if_neg (by omega), Nat.add_sub_cancel_left]
  refine ⟨_, exec_of_moves h.idle (h.moves _) ?_, ?_, ?_⟩
  · rintro b hb -
    cases hb
    simp [h.mem, hw]
  · rw [wholeEnd_read_hostResult, wholeEnd_read_rdata _ _ _ _ _ _ _ _ _ rfl, hanswer 0, hanswer 1, hanswer 2,
      hanswer 3, unpack32_wordBytes]
  · have hend := h.wholeEnd (.read a)
    rwa [Device.contentsAfter_frameBytes_read] at hend

/-- Settles O43. -/
theorem writeThenReadReturnsTheWord : Obligations.WriteThenReadReturnsTheWord := by
  intro a v s hs hd ht
  obtain ⟨t, hwrite, hresult, href⟩ := exec_write_onReference ⟨hs, hd, ht, rfl⟩ a v
  obtain ⟨u, hread, hword, -⟩ := exec_read_onReference href (Memory.read32_write32_same s.mem a v)
  exact ⟨t, u, hwrite, hread, hresult, hword⟩

end Sys2Proof.Machine

/-! ## The host's composite operations (R161, R162, R163, R166) -/
namespace Sys2Proof.Machine

/-- The status is the first part of what the host gets (C4). -/
theorem status_of_hostResult {s : State} {st : Status} {w : Option Word} (h : s.hostResult = some (st, w)) :
    s.status = st := by
  unfold State.hostResult at h
  split at h
  · exact congrArg Prod.fst (Option.some.inj h)
  · cases h

/-- What the host gets from a READ: `OK` with the word in `RDATA`, or `BUS_IO_ERR` alone (R120, C4). -/
theorem exec_read_hostResult {a : Addr} {s t : State} (hs : s.phase = .idle) (h : exec (.read a) s = .next t) :
    (t.status = .ok ∧ t.rdataValid = true ∧ t.hostResult = some (.ok, some t.rdata)) ∨
    (t.status = .busIoErr ∧ t.hostResult = some (.busIoErr, none)) := by
  obtain ⟨x, -, ⟨-, rfl⟩ | ⟨-, rfl⟩⟩ := exec_next hs h
  · exact .inr ⟨rfl, shortEnd_hostResult ..⟩
  · exact .inl ⟨wholeEnd_status .., by simp [State.rdataValid, Instr.op], wholeEnd_read_hostResult ..⟩

section
variable {a : Addr} {s t : State} (h : exec (.read a) s = .next t)
include h

theorem rmw_of_word {w : Word} (hr : t.hostResult = some (.ok, some w)) (m x : Word) :
    rmw a m x s = exec (.write a (overlay w m x)) t := by
  simp only [rmw, h, hr]

theorem rmw_of_busIoErr (hr : t.hostResult = some (.busIoErr, none)) (m x : Word) : rmw a m x s = .next t := by
  simp only [rmw, h, hr]

end

/-- Settles O45. -/
theorem rmwIsReadThenWrite : Obligations.RmwIsReadThenWrite := by
  intro a m x s t hs h
  obtain ⟨hst, -, hr⟩ | ⟨hst, hr⟩ := exec_read_hostResult hs h
  · exact ⟨fun _ => rmw_of_word h hr m x, fun herr => by simp [hst] at herr⟩
  · exact ⟨fun hok => by simp [hst] at hok, fun _ => rmw_of_busIoErr h hr m x⟩

/-! ### One byte of a word (R163) -/

/-- An overlay takes the bits of the mask from `x` and keeps the others (R162). -/
theorem getLsbD_overlay (w m x : Word) {k : Nat} (hk : k < 32) :
    (overlay w m x).getLsbD k = if m.getLsbD k then x.getLsbD k else w.getLsbD k := by
  rw [overlay, BitVec.getLsbD_or, BitVec.getLsbD_and, BitVec.getLsbD_and, BitVec.getLsbD_not]
  cases m.getLsbD k <;> simp [hk]

/-- A byte in the lane at bit `o` of a word. -/
theorem getLsbD_lane (y : Byte) (o : Nat) {k : Nat} (hk : k < 32) :
    (y.setWidth 32 <<< o).getLsbD k = (decide (o ≤ k) && y.getLsbD (k - o)) := by
  by_cases ho : o ≤ k
  · simp [hk, ho]
  · simp [hk, ho, Nat.lt_of_not_le ho]

/-- Overlaying lane `r` of a word replaces byte `r` and no other (R163). -/
theorem wordByte_overlay_lane (w : Word) (y : Byte) (r : Nat) {j : Nat} (hj : j < 4) :
    wordByte (overlay w (0x000000FF#32 <<< (8 * r)) (y.setWidth 32 <<< (8 * r))) j =
      if j = r then y else wordByte w j := by
  refine BitVec.eq_of_getLsbD_eq fun b hb => ?_
  have hk : 8 * j + b < 32 := by omega
  have hmask : (0x000000FF#32 <<< (8 * r)).getLsbD (8 * j + b) = decide (j = r) := by
    have hlane := getLsbD_lane 0xFF#8 (8 * r) hk
    have hones (k : Nat) : (0xFF#8).getLsbD k = decide (k < 8) := BitVec.getLsbD_allOnes (v := 8) (i := k)
    rw [show 0x000000FF#32 = (0xFF#8).setWidth 32 from rfl, hlane, hones]
    by_cases hjr : j = r <;> simp [hjr] <;> omega
  rw [getLsbD_wordByte _ j b hb, getLsbD_overlay _ _ _ hk, hmask, getLsbD_lane y _ hk]
  by_cases hjr : j = r
  · simp [hjr]
  · simp [hjr, getLsbD_wordByte w j b hb]

/-- A byte address is its word's address and its lane (R163). -/
theorem align_add_lane (b : Addr) : (b &&& 0xFFC#12) + (b &&& 0x003#12) = b := by
  have hdisjoint : (b &&& 0xFFC#12) &&& (b &&& 0x003#12) = 0#12 := calc
    (b &&& 0xFFC#12) &&& (b &&& 0x003#12) = (b &&& b) &&& (0xFFC#12 &&& 0x003#12) := by ac_rfl
    _ = 0#12 := BitVec.and_zero
  calc (b &&& 0xFFC#12) + (b &&& 0x003#12) = (b &&& 0xFFC#12) ||| (b &&& 0x003#12) :=
        BitVec.add_eq_or_of_and_eq_zero _ _ hdisjoint
    _ = b &&& BitVec.allOnes 12 := BitVec.and_or_distrib_left.symm
    _ = b := BitVec.and_allOnes

/-- Replacing lane `r` of a stored word sets the byte at `r` past its address and no other. -/
theorem Memory.get_write32_overlay_lane {m : Memory} {a : Addr} {w : Word} (hw : m.read32 a = some w) (y : Byte)
    {r : Nat} (hr : r < 4) (x : Addr) :
    (m.write32 a (overlay w (0x000000FF#32 <<< (8 * r)) (y.setWidth 32 <<< (8 * r)))).get x.toNat =
      if (x - a).toNat = r then some y else m.get x.toNat := by
  rw [Memory.get_write32_eq_ite]
  by_cases hx : (x - a).toNat < 4
  · have hget := (Memory.read32_eq_some_iff m a w).mp hw _ hx
    rw [(byteAddr_eq_iff a x hx).mpr rfl] at hget
    rw [if_pos hx, wordByte_overlay_lane w y r hx, hget]
    split <;> rfl
  · rw [if_neg hx, if_neg (by omega)]

/-- Settles O46. -/
theorem writebChangesOneByte : Obligations.WritebChangesOneByte := by
  intro b y s hs hd ht hv
  obtain ⟨w, hw⟩ := Option.ne_none_iff_exists'.mp hv
  obtain ⟨t, hread, hword, href⟩ := exec_read_onReference ⟨hs, hd, ht, rfl⟩ hw
  obtain ⟨u, hwrite, hresult, hend⟩ := exec_write_onReference href (b &&& 0xFFC#12)
    (overlay w (0x000000FF#32 <<< laneShift b) (y.setWidth 32 <<< laneShift b))
  refine ⟨u, ?_, status_of_hostResult hresult, fun x => ?_, ?_⟩
  · rw [writeb, rmw_of_word hread hword, hwrite]
  · have hlane : (b &&& 0x003#12).toNat < 4 := Nat.lt_succ_of_le Nat.and_le_right
    have halign := align_add_lane b
    have hat : (x - (b &&& 0xFFC#12)).toNat = (b &&& 0x003#12).toNat ↔ x = b := by
      generalize b &&& 0xFFC#12 = a at halign ⊢
      bv_omega
    rw [hend.mem, laneShift, Memory.get_write32_overlay_lane hw y hlane]
    exact if_congr hat rfl rfl
  · obtain ⟨n, -, hn⟩ := exec_frame hs hread
    obtain ⟨k, -, hk⟩ := exec_frame href.idle hwrite
    simp [hk, hn]

/-! ### The polled wait (R166) -/

/-- One read of a polled wait: it ends the wait, or the wait goes on with a budget smaller by one. -/
theorem poll_succ {a : Addr} {P : Word → Bool} {code c : HostCode} {n : Nat} {s t : State} (hs : s.phase = .idle)
    (h : poll a P code (n + 1) s = .ended c t) : ∃ u, exec (.read a) s = .next u ∧
      ((c = .ok ∧ t = u ∧ P u.rdata = true ∧ u.rdataValid = true) ∨ (c = .busIoErr ∧ t = u) ∨
        poll a P code n u = .ended c t) := by
  cases hx : exec (.read a) s with
  | fault f => simp [poll, hx] at h
  | refused r => simp [poll, hx] at h
  | next u =>
    refine ⟨u, rfl, ?_⟩
    obtain ⟨-, hvalid, hr⟩ | ⟨-, hr⟩ := exec_read_hostResult hs hx
    · simp only [poll, hx, hr] at h
      split at h
      · next hP =>
        cases h
        exact .inl ⟨rfl, rfl, hP, hvalid⟩
      · exact .inr (.inr h)
    · simp only [poll, hx, hr] at h
      cases h
      exact .inr (.inl ⟨rfl, rfl⟩)

/-- Settles O47, by induction on the budget. -/
theorem pollIsBounded : Obligations.PollIsBounded := by
  intro a P code c n s t hs hok herr h
  induction n generalizing s with
  | zero =>
    cases h
    exact ⟨⟨[], by simp, Nat.le_refl 0, by simp, fun _ => rfl⟩, fun hc => absurd hc hok, .inr (.inr rfl)⟩
  | succ n ih =>
    obtain ⟨u, hx, hend⟩ := poll_succ hs h
    obtain ⟨k, hk, hw⟩ := exec_frame hs hx
    have hframe : ∀ f ∈ [(encode (.read a)).take k], ∃ k ≤ 6, f = (encode (.read a)).take k :=
      fun f hf => ⟨k, hk, List.mem_singleton.mp hf⟩
    obtain ⟨rfl, rfl, hP, hvalid⟩ | ⟨rfl, rfl⟩ | hrest := hend
    · exact ⟨⟨_, hw, by simp, hframe, fun hc => absurd hc.symm hok⟩, fun _ => ⟨hP, hvalid⟩, .inl rfl⟩
    · exact ⟨⟨_, hw, by simp, hframe, fun hc => absurd hc.symm herr⟩, (by simp), .inr (.inl rfl)⟩
    · obtain ⟨⟨fs, hfs, hlen, hreads, hcount⟩, hgood, hends⟩ := ih u (exec_released hs hx).1 hrest
      refine ⟨⟨(encode (.read a)).take k :: fs, by simp [hfs, hw], by simpa using hlen, ?_,
        fun hc => by simp [hcount hc]⟩, hgood, hends⟩
      intro f hf
      obtain rfl | hf := List.mem_cons.mp hf
      · exact ⟨k, hk, rfl⟩
      · exact hreads f hf

end Sys2Proof.Machine

/-! ## The field helpers (R161) -/
namespace Sys2Proof.Machine

/-- `(1 << w) - 1` is the mask of the `w` low bits, `w = 32` included. -/
theorem getLsbD_lowOnes (w : Nat) {k : Nat} (hk : k < 32) : ((1#32 <<< w) - 1#32).getLsbD k = decide (k < w) := by
  have hpow : 1#32 <<< w = BitVec.ofNat 32 (2 ^ w) := BitVec.eq_of_toNat_eq (by simp [Nat.shiftLeft_eq])
  have hmask : (1#32 <<< w) - 1#32 = BitVec.ofNat 32 (2 ^ w - 1) := by
    obtain ⟨n, hn⟩ := Nat.exists_eq_add_one_of_ne_zero (Nat.two_pow_pos w).ne'
    rw [hpow, hn, BitVec.ofNat_add, BitVec.add_sub_cancel, Nat.add_sub_cancel]
  rw [hmask, BitVec.getLsbD_ofNat, Nat.testBit_two_pow_sub_one]
  simp [hk]

theorem getLsbD_fmask (o w : Nat) {k : Nat} (hk : k < 32) :
    (fmask o w).getLsbD k = decide (o ≤ k ∧ k < o + w) := by
  rw [fmask, BitVec.getLsbD_shiftLeft, getLsbD_lowOnes w (k := k - o) (by omega)]
  by_cases ho : o ≤ k
  · simp [hk, ho, Nat.sub_lt_iff_lt_add' ho]
  · simp [hk, ho, Nat.lt_of_not_le ho]

/-- Settles O48, bit by bit. -/
theorem fieldHelpers : Obligations.FieldHelpers := by
  intro word x o w hw how
  refine ⟨fun k hk => ?_, fun k hk => ?_⟩
  · rw [putField, BitVec.getLsbD_or, BitVec.getLsbD_and, BitVec.getLsbD_and, BitVec.getLsbD_not, getLsbD_fmask o w hk,
      BitVec.getLsbD_shiftLeft]
    by_cases hfield : o ≤ k ∧ k < o + w
    · simp [hk, hfield]
    · simp [hk, hfield]
  · rw [getField, BitVec.getLsbD_and, BitVec.getLsbD_ushiftRight, getLsbD_lowOnes w hk, Bool.and_comm]

/-! ## Samples and the block's own reset -/

/-- Settles O13: closed frames, evaluated. -/
theorem sampleWordsDecode : Obligations.SampleWordsDecode :=
  ⟨by decide, by decide, by decide, by decide, by decide⟩

/-- Settles O14: the reset state, evaluated. -/
theorem resetLeavesIdleAndReleased : Obligations.ResetLeavesIdleAndReleased := ⟨rfl, rfl, rfl, rfl, rfl⟩

/-! ## The address map (R52 to R55) -/

theorem Region.holds_iff (r : Region) (a : Addr) :
    r.holds a = true ↔ r.bounds.1 ≤ a.toNat ∧ a.toNat ≤ r.bounds.2 := by
  simp [Region.holds]

/-- No address lies in two regions (R52). -/
theorem Region.eq_of_holds {a : Addr} {r q : Region} (hr : r.holds a = true) (hq : q.holds a = true) : r = q := by
  rw [Region.holds_iff] at hr hq
  by_contra hne
  cases r <;> cases q <;> simp [Region.bounds] at hr hq hne <;> omega

/-- The region of an address is the one that holds it. -/
theorem regionOf_eq_some_iff (a : Addr) (r : Region) :
    regionOf a = some r ↔ r.bounds.1 ≤ a.toNat ∧ a.toNat ≤ r.bounds.2 := by
  rw [← Region.holds_iff]
  constructor
  · exact List.find?_some (p := fun q : Region => q.holds a)
  · intro h
    cases hfound : regionOf a with
    | some q => exact congrArg some (Region.eq_of_holds (List.find?_some (p := fun q : Region => q.holds a) hfound) h)
    | none =>
      have hall := List.find?_eq_none.mp hfound r (by cases r <;> decide)
      exact absurd h hall

theorem regionOf_eq_none_iff (a : Addr) :
    regionOf a = none ↔ ∀ r : Region, ¬(r.bounds.1 ≤ a.toNat ∧ a.toNat ≤ r.bounds.2) := by
  simp only [← regionOf_eq_some_iff]
  cases regionOf a <;> simp

/-- The word of a byte address is the multiple of 4 at or below it. -/
theorem toNat_align (b : Addr) : (b &&& 0xFFC#12).toNat = b.toNat - b.toNat % 4 := by
  have hsum := align_add_lane b
  have hlane : (b &&& 0x003#12).toNat = b.toNat % 4 := by
    rw [BitVec.toNat_and]
    exact Nat.and_two_pow_sub_one_eq_mod b.toNat 2
  have hle : (b &&& 0xFFC#12).toNat ≤ b.toNat := Nat.and_le_left
  generalize b &&& 0xFFC#12 = a at *
  generalize b &&& 0x003#12 = l at *
  bv_omega

/-- The word that holds `CiFLTCON[n]` is the aligned word of that byte (R55). -/
theorem ciFLTCONWord_eq_align {n : Nat} (hn : n < 32) : ciFLTCONWord n = ciFLTCON n &&& 0xFFC := by
  refine BitVec.eq_of_toNat_eq (Eq.trans ?_ (toNat_align _).symm)
  rw [ciFLTCONWord, ciFLTCON, BitVec.toNat_ofNat, BitVec.toNat_ofNat]
  omega

/-- Settles O49. -/
theorem addressMap : Obligations.AddressMap := by
  refine ⟨fun a => ⟨?_, ?_, ?_, ?_, ?_, ?_⟩, fun a r q => Region.eq_of_holds, ?_, by decide, by decide, by decide,
    by decide, by decide,
    List.forall_iff_forall_mem.mp (by decide)⟩
  · rw [regionOf_eq_some_iff]
    exact and_iff_right (Nat.zero_le _)
  · exact regionOf_eq_some_iff a .fifoTable
  · exact regionOf_eq_some_iff a .filterTable
  · exact regionOf_eq_some_iff a .messageRam
  · exact regionOf_eq_some_iff a .deviceSfr
  · have hlt := a.isLt
    rw [regionOf_eq_none_iff]
    constructor
    · intro h
      have h1 := h .canSfr
      have h2 := h .fifoTable
      have h3 := h .filterTable
      have h4 := h .messageRam
      have h5 := h .deviceSfr
      simp only [Region.bounds] at h1 h2 h3 h4 h5
      omega
    · intro h r
      cases r <;> simp only [Region.bounds] <;> omega
  · intro n hn
    rw [← ciFLTCONWord_eq_align hn]
    simp (disch := omega) only [regionOf_eq_some_iff, Region.bounds, BitVec.toNat_ofNat, Nat.mod_eq_of_lt,
      ciFIFOCON, ciFIFOSTA, ciFIFOUA, ciFLTCON, ciFLTCONWord, ciFLTOBJ, ciMASK, true_and, and_true]
    omega

end Sys2Proof.Machine
